-- ==== Sys2Proof/Word.lean ====
section
/-! DEFINITION. The word types of the block (10_state.md R20, 30_encoding.md R80, R86, R92). -/

namespace Sys2Proof

/-- One FrameBuffer byte, one colour channel, or the brightness (20_memory.md R50, 10_state.md R24). -/
abbrev Byte := BitVec 8

/-- One DMA entry, a timer compare count of DUTY_BITS = 16 bits (30_encoding.md R86; 92_eei_decisions.md D1, log 13). -/
abbrev Duty := BitVec 16

/-- A packed colour, W R G B from the most significant byte down (30_encoding.md R80). -/
abbrev ColorWord := BitVec 32

/-- A command word: op[55:48], n[47:32], data[31:0] (30_encoding.md R92). -/
abbrev CmdWord := BitVec 56

end Sys2Proof
end

