-- ==== Sys2Proof/Config.lean ====
section
/-! DEFINITION. What is fixed for one strip: the layouts, the construction parameters, and the free values. -/

namespace Sys2Proof

/-- The four colour channels (30_encoding.md R80). -/
inductive Channel where
  | r | g | b | w
  deriving DecidableEq, Repr

/-- The twelve layouts, "a closed configuration set" (10_state.md R22, 30_encoding.md R84), in the source's order. -/
inductive Layout where
  | rgb | rbg | gbr | grb | brg | bgr
  | wrgb | wrbg | wgbr | wgrb | wbrg | wbgr
  deriving DecidableEq, Repr

/-- The construction parameters of 00_scope.md R7 that CONSTRUCT takes (70_reset_and_hazards.md R231).
`powerUp` is the model's own: it selects the unspecified contents of the two memories (log 3). -/
structure Params where
  nReq       : BitVec 16
  allocOk    : Bool
  layoutCode : Nat
  zeroDuty   : Duty
  oneDuty    : Duty
  powerUp    : Nat
  deriving DecidableEq, Repr

/-- FREE VALUE: what FrameBuffer byte `addr` holds before anything has written it, for power-up number `powerUp`
(10_state.md R25: "reset contents are unspecified, each byte any value 0 to 255"; log 3). -/
opaque Config.fbInitial (powerUp addr : Nat) : Byte

/-- FREE VALUE: what DMA entry `entry` holds before anything has written it, for power-up number `powerUp`
(10_state.md R26: "Reset contents unspecified"; log 3). -/
opaque Config.dmaInitial (powerUp entry : Nat) : Duty

end Sys2Proof
end

