-- ==== Sys2Proof/Syntax.lean ====
section
/-! DEFINITION. The nine stimuli (00_scope.md R2) and the raw fields of a command word (30_encoding.md R92). -/

namespace Sys2Proof

/-- The nine operations, one constructor per row of spec/opcode_table.json (30_encoding.md R94). -/
inductive Instr where
  /-- SHOW: send the FrameBuffer as one frame (43_transfer_controller.md R172). -/
  | showCmd
  /-- CLEAR: zero the FrameBuffer (43_transfer_controller.md R173). -/
  | clearCmd
  /-- WAIT: wait for readiness (43_transfer_controller.md R174). -/
  | waitCmd
  /-- SETPIX n, color (43_transfer_controller.md R176). -/
  | setPix (n : BitVec 16) (color : ColorWord)
  /-- GETPIX n (43_transfer_controller.md R178). -/
  | getPix (n : BitVec 16)
  /-- SETBRI data: the requested brightness, 32 bits (40_color_model.md R118). -/
  | setBri (data : BitVec 32)
  /-- HT: the half-complete event (42_scheduler.md R146). -/
  | ht
  /-- TC: the full-complete event (42_scheduler.md R148). -/
  | tc
  /-- ERR: the error event (42_scheduler.md R150). -/
  | err
  deriving DecidableEq, Repr

/-- The two contexts a stimulus can arrive in (60_exceptions.md R213). -/
inductive Context where
  | foreground | interrupt
  deriving DecidableEq, Repr

/-- The three events of the engine (60_exceptions.md R193). -/
inductive Event where
  | ht | tc | err
  deriving DecidableEq, Repr

/-- The context each operation belongs to (30_encoding.md R94, column "context"). -/
def Instr.context : Instr → Context
  | .showCmd    => .foreground
  | .clearCmd   => .foreground
  | .waitCmd    => .foreground
  | .setPix _ _ => .foreground
  | .getPix _   => .foreground
  | .setBri _   => .foreground
  | .ht         => .interrupt
  | .tc         => .interrupt
  | .err        => .interrupt

/-- The operation an event runs (42_scheduler.md R141). -/
def Event.instr : Event → Instr
  | .ht  => .ht
  | .tc  => .tc
  | .err => .err

/-- The three fields of a command word before any check (30_encoding.md R92). -/
structure CmdFields where
  op   : BitVec 8
  n    : BitVec 16
  data : BitVec 32
  deriving DecidableEq, Repr

end Sys2Proof
end

