-- ==== Sys2Proof/WellFormed.lean ====
section
/-! DEFINITION. The checks on syntax: the fields of a command word (30_encoding.md R95, R100, R102), the context a
stimulus arrives in (R95), and the construction parameters (00_scope.md R7, 30_encoding.md R101). -/

namespace Sys2Proof

/-- The check of 30_encoding.md R95: a known `op`, every field it does not use zero, and for op 0x11 data 0 or 1. -/
def CmdFields.wf (f : CmdFields) : Bool :=
  match f.op.toNat with
  | 0x01 => f.n == 0 && f.data == 0
  | 0x02 => f.n == 0 && f.data == 0
  | 0x03 => f.n == 0 && f.data == 0
  | 0x04 => true
  | 0x05 => f.data == 0
  | 0x06 => f.n == 0
  | 0x10 => f.n == 0 && f.data == 0
  | 0x11 => f.n == 0 && (f.data == 0 || f.data == 1)
  | _    => false

/-- A stimulus is well formed in the context it belongs to, and in no other (30_encoding.md R95: "a word arriving in
the wrong context has no meaning"). Operands are bit vectors of the encoding's widths, so nothing else can be wrong. -/
def Instr.wfIn (c : Context) (i : Instr) : Bool := decide (i.context = c)

/-- The constraints of 00_scope.md R7 on the construction parameters: a layout code 0 to 11 and
`0 < ZERO_DUTY < ONE_DUTY`. Only the layout code is checked by the block (70_reset_and_hazards.md R231, R234). -/
def Params.wf (p : Params) : Bool :=
  decide (p.layoutCode ≤ 11) && decide (0 < p.zeroDuty.toNat) && decide (p.zeroDuty.toNat < p.oneDuty.toNat)

end Sys2Proof
end

