-- ==== Sys2Proof/Decode.lean ====
section
/-! DEFINITION. The command word: decoder and encoder (30_encoding.md R92 to R103), and the layout codes (R84). -/

namespace Sys2Proof

/-- Why a command word has no meaning (30_encoding.md R100, R102). -/
inductive DecodeError where
  /-- `op` is none of 0x01 to 0x06, 0x10, 0x11 (R100). -/
  | reservedOp (op : BitVec 8)
  /-- A field the operation does not use is not zero, or op 0x11 has data of 2 or more (R102). -/
  | reservedField (op : BitVec 8)
  deriving DecidableEq, Repr

/-- The fields of a word: op[55:48], n[47:32], data[31:0] (30_encoding.md R92). -/
def cmdFields (w : CmdWord) : CmdFields :=
  { op := w.extractLsb' 48 8, n := w.extractLsb' 32 16, data := w.extractLsb' 0 32 }

/-- The word with the given fields (30_encoding.md R92). -/
def cmdWord (f : CmdFields) : CmdWord := f.op ++ f.n ++ f.data

/-- Accept `i` when the unused fields are zero, else refuse the word (30_encoding.md R102). -/
def acceptIf (ok : Bool) (op : BitVec 8) (i : Instr) : Except DecodeError Instr :=
  if ok then .ok i else .error (.reservedField op)

/-- Decoding of the fields, by the opcode map of 30_encoding.md R94 and the checks of R95. -/
def decodeFields (f : CmdFields) : Except DecodeError Instr :=
  match f.op.toNat with
  | 0x01 => acceptIf (f.n == 0 && f.data == 0) f.op .showCmd
  | 0x02 => acceptIf (f.n == 0 && f.data == 0) f.op .clearCmd
  | 0x03 => acceptIf (f.n == 0 && f.data == 0) f.op .waitCmd
  | 0x04 => .ok (.setPix f.n f.data)
  | 0x05 => acceptIf (f.data == 0) f.op (.getPix f.n)
  | 0x06 => acceptIf (f.n == 0) f.op (.setBri f.data)
  | 0x10 => acceptIf (f.n == 0 && f.data == 0) f.op .ht
  | 0x11 => if f.data == 0 then acceptIf (f.n == 0) f.op .tc
            else acceptIf (f.n == 0 && f.data == 1) f.op .err
  | _    => .error (.reservedOp f.op)

/-- Decoding, total on the 2^56 words (30_encoding.md R95). -/
def decode (w : CmdWord) : Except DecodeError Instr := decodeFields (cmdFields w)

/-- The fields of an instruction (30_encoding.md R94, columns `op`, `n`, `data`). -/
def instrFields : Instr → CmdFields
  | .showCmd        => { op := 0x01, n := 0, data := 0 }
  | .clearCmd       => { op := 0x02, n := 0, data := 0 }
  | .waitCmd        => { op := 0x03, n := 0, data := 0 }
  | .setPix n color => { op := 0x04, n := n, data := color }
  | .getPix n       => { op := 0x05, n := n, data := 0 }
  | .setBri data    => { op := 0x06, n := 0, data := data }
  | .ht             => { op := 0x10, n := 0, data := 0 }
  | .tc             => { op := 0x11, n := 0, data := 0 }
  | .err            => { op := 0x11, n := 0, data := 1 }

/-- The command word of an instruction (30_encoding.md R94). -/
def encode (i : Instr) : CmdWord := cmdWord (instrFields i)

/-- The word `w` of `nbits` bits, numbered as spec/opcode_table.json numbers it, as a command word; none when it is
longer than the one length there is (30_encoding.md R92: "There is one length and one format"; R103). A word given with
fewer bits is the command word whose other, high bits are 0: DESIGN CHOICE, log 26. -/
def tableWord (nbits w : Nat) : Option CmdWord :=
  if nbits ≤ 56 ∧ w < 2 ^ nbits then some (BitVec.ofNat 56 w) else none

/-- The instruction the decoder reads from a word of the opcode table; none where it refuses. -/
def decodeTableWord (nbits w : Nat) : Option Instr :=
  match tableWord nbits w with
  | some cw => (decode cw).toOption
  | none    => none

/-- The layout a code stands for; none for a code above 11 (30_encoding.md R84, R101). -/
def Layout.ofCode? : Nat → Option Layout
  | 0  => some .rgb
  | 1  => some .rbg
  | 2  => some .gbr
  | 3  => some .grb
  | 4  => some .brg
  | 5  => some .bgr
  | 6  => some .wrgb
  | 7  => some .wrbg
  | 8  => some .wgbr
  | 9  => some .wgrb
  | 10 => some .wbrg
  | 11 => some .wbgr
  | _  => none

end Sys2Proof
end

