-- ==== Sys2Proof/Machine/State.lean ====
section
/-! DEFINITION. The state of one strip instance (10_state.md R20 to R40), as plain data, and its value after reset. -/

namespace Sys2Proof.Machine

/-- A memory of `w`-bit units, as the units that have been written: addresses strictly rising (`Memory.wf`). An
unlisted address is one nothing has written; what it reads as is a free value (log 3). `Memory 8` is a list of Host.Cell. -/
abbrev Memory (w : Nat) := List (Nat × BitVec w)

/-- The scheduler state (10_state.md R30). -/
inductive Phase where
  | idle | priming | streaming | draining | complete
  deriving DecidableEq, Repr

/-- The two outputs of the block to the engine (30_encoding.md R96). The buffer argument of startPwmDma is always the
DMA buffer (60_exceptions.md R203), so only the length, in entries, is kept. -/
inductive EngineOutput where
  | startPwmDma (length : Nat)
  | stopPwmDma
  deriving DecidableEq, Repr

/-- Which agent the environment lets move next (00_scope.md R12, 10_state.md R39, 60_exceptions.md R200, R210; log 1). -/
inductive Turn where
  /-- The foreground runs its current command, or what is left of it, with no event in between; or goes on waiting. -/
  | foreground
  /-- The foreground makes one access of its current command; an event or the engine may come before the next one. -/
  | access
  /-- The engine takes one bit period. -/
  | engine
  /-- The engine reports an error, at a point where nothing pends (60_exceptions.md R210). -/
  | hwError
  /-- The engine reports an error together with the event that is due (60_exceptions.md R198; log 6). -/
  | jointError
  deriving DecidableEq, Repr

/-- One access of a foreground command: the unit between two of which an event may arrive (20_memory.md R64,
60_exceptions.md R200; log 4). -/
inductive Access where
  /-- FB[a] is read into the command's local bytes. -/
  | loadFb (a : Nat)
  /-- FB[a] <- v. -/
  | storeFb (a : Nat) (v : Byte)
  /-- FB[a] <- applyBrightness(v, brightness) (43_transfer_controller.md R176). -/
  | storeScaled (a : Nat) (v : Byte)
  /-- FB[a] <- rescale(the byte read, brightness, b) (40_color_model.md R118). -/
  | storeRescaled (a : Nat) (b : Byte)
  /-- brightness <- b (40_color_model.md R118). -/
  | setBrightness (b : Byte)
  /-- return pack of the bytes read, the brightness reversed (43_transfer_controller.md R178). -/
  | returnColour
  /-- return 0 (43_transfer_controller.md R178). -/
  | returnZero
  /-- ready <- false (42_scheduler.md R144). -/
  | clearReady
  /-- phase <- Priming (42_scheduler.md R144). -/
  | enterPriming
  /-- DMA[e] <- 0 (41_bitstream_encoder.md R134). -/
  | zeroEntry (e : Nat)
  /-- DMA[e] <- d_k of the byte read last (41_bitstream_encoder.md R135). -/
  | storeBit (e k : Nat)
  /-- out_index <- v (42_scheduler.md R144, 41_bitstream_encoder.md R135). -/
  | setCursor (v : BitVec 32)
  /-- irq_en <- true (42_scheduler.md R144). -/
  | enableEvents
  /-- emit startPwmDma(DMA, L); phase <- Streaming: the engine is armed, one action (42_scheduler.md R143, R144, R145 (b);
  log 25). -/
  | startEngine
  deriving DecidableEq, Repr

/-- The whole state of one strip instance (10_state.md R20), then the model's own fields. -/
structure State where
  /-- N, the usable pixel count, "fixed after creation" (R21). -/
  n          : BitVec 16
  /-- LAYOUT, which fixes bpp and the channel offsets (R22). -/
  layout     : Layout
  /-- ZERO_DUTY, the duty table's entry for bit 0 (R23). -/
  zeroDuty   : Duty
  /-- ONE_DUTY, the duty table's entry for bit 1 (R23). -/
  oneDuty    : Duty
  /-- brightness, 0 meaning no scaling (R24). -/
  brightness : Byte
  /-- FB, the FrameBuffer (R25). -/
  fb         : Memory 8
  /-- DMA, the DMA buffer (R26). -/
  dma        : Memory 16
  /-- out_index, the transfer cursor (R28). -/
  outIndex   : BitVec 32
  /-- ready, the readiness flag (R29). -/
  ready      : Bool
  /-- phase, the scheduler state (R30). -/
  phase      : Phase
  /-- irq_en, whether events are delivered (R32). -/
  irqEn      : Bool
  /-- hw_run, whether the engine is transferring (R33). -/
  hwRun      : Bool
  /-- rp, the engine's read pointer (R34). -/
  rp         : BitVec 6
  /-- pend, the event raised and not yet handled (R36). -/
  pend       : Option Event
  /-- wire, the duty values put out since construction, oldest first (R35). -/
  wire       : List Duty
  /-- MODEL'S OWN: selects the free values of unwritten memory (log 3). -/
  powerUp    : Nat
  /-- MODEL'S OWN: the values GETPIX has returned, oldest first (log 10). -/
  returned   : List ColorWord
  /-- MODEL'S OWN: the calls made to the engine, oldest first (log 10). -/
  outputs    : List EngineOutput
  /-- MODEL'S OWN: the foreground's program, the current command first (log 1). -/
  prog       : List CmdWord
  /-- MODEL'S OWN: the environment's schedule (log 1). -/
  turns      : List Turn
  /-- The accesses the current command has still to make; none when no command is in progress (60_exceptions.md R200:
  "the command's partial result"; log 4). -/
  todo       : List Access
  /-- The local bytes of the command in progress, oldest first (log 4). -/
  loaded     : List Byte
  deriving DecidableEq, Repr

/-- Why the machine stops with a fault. No state with the invariant reaches one (60_exceptions.md R191, log 8). -/
inductive Fault where
  /-- fillUnit would read the FrameBuffer at `addr`, outside [0, N*bpp) (20_memory.md R52). Raised by HT and TC in a
  state whose cursor is no multiple of bpp, which no run reaches (41_bitstream_encoder.md R136 (a)). Safe. -/
  | fbAddress (addr : Nat)
  /-- The engine would read the DMA buffer at `entry`, outside [0, L) (20_memory.md R53). Raised by an engine step in
  a state whose `rp` is not below L, which no run reaches (10_state.md R34). Safe. -/
  | dmaAddress (entry : Nat)
  deriving DecidableEq, Repr

/-- Why a stimulus has no meaning. -/
inductive Refusal where
  /-- An instruction that has no meaning yet; raised by no arm of this model. Safe. -/
  | notModelled (mnemonic : String)
  /-- A command word with a reserved op (30_encoding.md R100). Raised by the fetch. Safe. -/
  | reservedOp (op : BitVec 8)
  /-- A command word with an unused field that is not zero (30_encoding.md R102). Raised by the fetch. Safe. -/
  | reservedField (op : BitVec 8)
  /-- A word of an event in the foreground's program (30_encoding.md R95, 60_exceptions.md R219). Raised by the
  fetch. Safe. -/
  | wrongContext
  /-- An event delivered while it is not enabled (60_exceptions.md R199). Raised by HT, TC and ERR. Safe. -/
  | spuriousEvent (e : Event)
  /-- A layout code above 11 at construction (30_encoding.md R101). Raised by `construct`. Safe. -/
  | noSuchLayout (code : Nat)
  deriving DecidableEq, Repr

/-- The state after the construction CONSTRUCT(3, true, 3 = GRB, 25, 50) of 95_test_vectors.md part 8: the values of
70_reset_and_hazards.md R231, for parameters the model chose (DESIGN CHOICE, log 2). Both memories list nothing
(unspecified, log 3); no program and no schedule are given (log 1). -/
def State.reset : State :=
  { n := 3
    layout := .grb
    zeroDuty := 25
    oneDuty := 50
    brightness := 0
    fb := []
    dma := []
    outIndex := 0
    ready := true
    phase := .idle
    irqEn := false
    hwRun := false
    rp := 0
    pend := none
    wire := []
    powerUp := 0
    returned := []
    outputs := []
    prog := []
    turns := []
    todo := []
    loaded := [] }

end Sys2Proof.Machine
end

