-- ==== Sys2Proof/Machine/Operands.lean ====
section
/-! DEFINITION. Operands and pure functions: the layout table, addresses, the colour model, the duty table and the byte
encoder (30_encoding.md R80 to R90, 40_color_model.md R110 to R117, 41_bitstream_encoder.md R130 to R133). -/

namespace Sys2Proof.Machine

/-! ### The layout table (30_encoding.md R84) -/

/-- One row of the table of 30_encoding.md R84: bpp, off(R), off(G), off(B), off(W). -/
structure LayoutRow where
  bpp : Nat
  r   : Nat
  g   : Nat
  b   : Nat
  w   : Option Nat
  deriving DecidableEq, Repr

/-- The table of 30_encoding.md R84. -/
def layoutRow : Layout → LayoutRow
  | .rgb  => ⟨3, 0, 1, 2, none⟩
  | .rbg  => ⟨3, 0, 2, 1, none⟩
  | .gbr  => ⟨3, 2, 0, 1, none⟩
  | .grb  => ⟨3, 1, 0, 2, none⟩
  | .brg  => ⟨3, 1, 2, 0, none⟩
  | .bgr  => ⟨3, 2, 1, 0, none⟩
  | .wrgb => ⟨4, 1, 2, 3, some 0⟩
  | .wrbg => ⟨4, 1, 3, 2, some 0⟩
  | .wgbr => ⟨4, 3, 1, 2, some 0⟩
  | .wgrb => ⟨4, 2, 1, 3, some 0⟩
  | .wbrg => ⟨4, 2, 3, 1, some 0⟩
  | .wbgr => ⟨4, 3, 2, 1, some 0⟩

/-- off(C), the offset of a channel in the pixel record; none for W when bpp = 3 (30_encoding.md R83, R84). -/
def chanOff (l : Layout) : Channel → Option Nat
  | .r => some (layoutRow l).r
  | .g => some (layoutRow l).g
  | .b => some (layoutRow l).b
  | .w => (layoutRow l).w

/-! ### Sizes (00_scope.md R7, R8) -/

/-- bpp, the bytes per pixel, 3 or 4 (00_scope.md R8). -/
def State.bpp (s : State) : Nat := (layoutRow s.layout).bpp

/-- N * bpp, the bytes of the FrameBuffer (20_memory.md R50). -/
def State.fbSize (s : State) : Nat := s.n.toNat * s.bpp

/-- H = 8 * bpp, the entries of one half (00_scope.md R8). -/
def State.halfLen (s : State) : Nat := 8 * s.bpp

/-- L = 16 * bpp, the entries of the DMA buffer (00_scope.md R8). -/
def State.bufLen (s : State) : Nat := 16 * s.bpp

/-- addr(n, C) = n * bpp + off(C) (20_memory.md R51); none where the strip has no such channel. -/
def State.chanAddr (s : State) (p : Nat) (c : Channel) : Option Nat :=
  (chanOff s.layout c).map (fun o => p * s.bpp + o)

/-- The halves of the DMA buffer (20_memory.md R54). -/
inductive Half where
  | a | b
  deriving DecidableEq, Repr

/-- The base of half h, h * H (20_memory.md R54). -/
def State.halfBase (s : State) : Half → Nat
  | .a => 0
  | .b => s.halfLen

/-! ### ColorWords (40_color_model.md R110, R111) -/

/-- pack(w, r, g, b) (40_color_model.md R110). -/
def pack (w r g b : Byte) : ColorWord :=
  BitVec.ofNat 32 (w.toNat * 2 ^ 24 + r.toNat * 2 ^ 16 + g.toNat * 2 ^ 8 + b.toNat)

/-- color(r, g, b), the source's spelling of pack(0, r, g, b) (30_encoding.md R106). -/
def color (r g b : Byte) : ColorWord := pack 0 r g b

/-- One component of unpack (30_encoding.md R81, 40_color_model.md R111). -/
def channelOf (c : ColorWord) : Channel → Byte
  | .w => c.extractLsb' 24 8
  | .r => c.extractLsb' 16 8
  | .g => c.extractLsb' 8 8
  | .b => c.extractLsb' 0 8

/-! ### Brightness (40_color_model.md R112 to R117) -/

/-- applyBrightness(v, b); `>> 8` is division by 256 (40_color_model.md R112, 00_scope.md R9). -/
def applyBrightness (v b : Byte) : Byte :=
  if b = 0 then v else BitVec.ofNat 8 ((v.toNat * b.toNat + 128) / 256)

/-- The quotient of reverseBrightness before it is narrowed to a byte (40_color_model.md R114). -/
def reverseQuotient (s b : Byte) : Nat := (s.toNat * 256 + b.toNat / 2) / b.toNat

/-- reverseBrightness(s, b), saturated at 255 (40_color_model.md R114, R115; log 12). -/
def reverseBrightness (s b : Byte) : Byte :=
  if b = 0 then s else BitVec.ofNat 8 (min 255 (reverseQuotient s b))

/-- rescale(s, old, new), the byte function of SETBRI (40_color_model.md R117; log 12). -/
def rescale (s old new : Byte) : Byte := applyBrightness (reverseBrightness s old) new

/-! ### Duty table and byte encoder (41_bitstream_encoder.md R130 to R132) -/

/-- lut(bit) (41_bitstream_encoder.md R130). -/
def State.lut (s : State) (bit : Bool) : Duty := if bit then s.oneDuty else s.zeroDuty

/-- encodeByte(x): d_k = lut(x[7 - k]), most significant bit first (41_bitstream_encoder.md R132). -/
def State.encodeByte (s : State) (x : Byte) : List Duty :=
  (List.range 8).map (fun k => s.lut (x.getLsbD (7 - k)))

/-- Nominal calibration for a timer of `f` counts per microsecond: PERIOD = 1.25 f, rounded to nearest
(41_bitstream_encoder.md R131; that an exact half rounds up is the model's choice, DESIGN CHOICE, log 24). The block
does not use it. -/
def nominalPeriod (f : Nat) : Nat := (125 * f + 50) / 100

/-- Nominal ZERO_DUTY = 0.35 f, rounded to nearest (41_bitstream_encoder.md R131; an exact half up: DESIGN CHOICE, log 24). -/
def nominalZeroDuty (f : Nat) : Nat := (35 * f + 50) / 100

/-- Nominal ONE_DUTY = 0.70 f, rounded to nearest (41_bitstream_encoder.md R131; an exact half up: DESIGN CHOICE, log 24). -/
def nominalOneDuty (f : Nat) : Nat := (70 * f + 50) / 100

/-- The level of the output `count` timer counts into a period whose entry is `d`: high for the first `d` counts, low
for the rest, low throughout for d = 0 (30_encoding.md R89). -/
def entryHigh (d : Duty) (count : Nat) : Bool := decide (count < d.toNat)

end Sys2Proof.Machine
end

