-- ==== Sys2Proof/Machine/Flags.lean ====
section
/-! DEFINITION. The conditions on the readiness flag and the cursor: the two waits, the phase label, the completion and
abort tests, and which event is enabled. -/

namespace Sys2Proof.Machine

/-- The condition of the full wait, `ready` (43_transfer_controller.md R171). -/
def State.fullWaitDone (s : State) : Bool := s.ready

/-- The condition of the cursor wait for pixel `p`: `ready or out_index >= (p + 1) * bpp`
(43_transfer_controller.md R175). -/
def State.cursorWaitDone (s : State) (p : Nat) : Bool :=
  s.ready || decide ((p + 1) * s.bpp ≤ s.outIndex.toNat)

/-- The unit at the cursor is a pixel unit: `out_index < N * bpp` (41_bitstream_encoder.md R135). -/
def State.cursorInData (s : State) : Bool := decide (s.outIndex.toNat < s.fbSize)

/-- The phase after a handler's fillUnit that does not complete the transfer (42_scheduler.md R143, R146, R148). -/
def State.phaseAfterFill (s : State) : Phase :=
  if s.fbSize < s.outIndex.toNat then .draining else .streaming

/-- The completion test of TC: `out_index >= (N + 2) * bpp` (42_scheduler.md R148). -/
def State.allQueued (s : State) : Bool := decide ((s.n.toNat + 2) * s.bpp ≤ s.outIndex.toNat)

/-- The abort test of a caller: ready with the cursor short of full length (42_scheduler.md R151). It also answers
true when no transfer has run yet (R151 (a)). -/
def State.looksAborted (s : State) : Bool := s.ready && !s.allQueued

/-- An event may be delivered: `irq_en` is true and the event is pending (60_exceptions.md R199). ERR may also be reported
together with the HT or TC that is pending, and then runs in its place (R198; log 6, log 7); with nothing pending no event
is enabled. -/
def State.eventEnabled (s : State) (e : Event) : Bool :=
  s.irqEn && (decide (s.pend = some e) || (decide (e = .err) && s.pend.isSome))

end Sys2Proof.Machine
end

