-- ==== Sys2Proof/Machine/Ops.lean ====
section
/-! DEFINITION. The named operations: over the two memories, on the pixel record, the unit fill, the transfer's start
and stop, taking an event and returning from it, and construction. -/

namespace Sys2Proof.Machine

/-! ### Memories -/

/-- The canonical form: addresses strictly rising. An unlisted address reads as a free value, so no listed unit can be
known to equal it (log 3). -/
abbrev Memory.wf {w : Nat} (m : Memory w) : Prop := m.Pairwise (fun x y => x.1 < y.1)

/-- Every listed address is below `limit`. -/
abbrev Memory.below {w : Nat} (m : Memory w) (limit : Nat) : Prop := ∀ x ∈ m, x.1 < limit

/-- The unit written at `a`; none where nothing has been written. -/
def Memory.get? {w : Nat} : Memory w → Nat → Option (BitVec w)
  | [], _ => none
  | (k, v) :: m, a => if a = k then some v else Memory.get? m a

/-- Write `v` at `a`, keeping the canonical form. -/
def Memory.set {w : Nat} : Memory w → Nat → BitVec w → Memory w
  | [], a, v => [(a, v)]
  | (k, x) :: m, a, v =>
    if a < k then (a, v) :: (k, x) :: m
    else if a = k then (a, v) :: m
    else (k, x) :: Memory.set m a v

/-- Write the units of `vs` at `a`, `a + 1`, and so on, in that order. -/
def Memory.writeRun {w : Nat} : Memory w → Nat → List (BitVec w) → Memory w
  | m, _, [] => m
  | m, a, v :: vs => Memory.writeRun (Memory.set m a v) (a + 1) vs

/-- FB[a] (00_scope.md R10); a byte nothing has written reads as its free value (10_state.md R25; log 3). -/
def State.fbRead (s : State) (a : Nat) : Byte := (Memory.get? s.fb a).getD (Config.fbInitial s.powerUp a)

/-- DMA[e] (00_scope.md R10); an entry nothing has written reads as its free value (10_state.md R26; log 3). -/
def State.dmaRead (s : State) (e : Nat) : Duty := (Memory.get? s.dma e).getD (Config.dmaInitial s.powerUp e)

/-- FB[a] <- v (00_scope.md R10). -/
def State.fbWrite (s : State) (a : Nat) (v : Byte) : State := { s with fb := Memory.set s.fb a v }

/-- DMA[e] <- d (00_scope.md R10). -/
def State.dmaWrite (s : State) (e : Nat) (d : Duty) : State := { s with dma := Memory.set s.dma e d }

/-- FB[a] <- v for the bytes of `vs` in ascending order from address 0: the loops of CLEAR and SETBRI. -/
def State.fbWriteAll (s : State) (vs : List Byte) : State := { s with fb := Memory.writeRun s.fb 0 vs }

/-- The `H` entries of half `h` become `ds`. -/
def State.fillHalf (s : State) (h : Half) (ds : List Duty) : State :=
  { s with dma := Memory.writeRun s.dma (s.halfBase h) ds }

/-! ### The foreground's program -/

/-- The current command has completed: the foreground goes on to the next one (43_transfer_controller.md R170). -/
def State.retire (s : State) : State := { s with prog := s.prog.tail }

/-- `return v`: the operation's result goes to the foreground (00_scope.md R10). -/
def State.giveResult (s : State) (v : ColorWord) : State := { s with returned := s.returned ++ [v] }

/-! ### Pixel records -/

/-- Store channel `c` of pixel `p`, scaled by the brightness; nothing where the strip has no such channel
(43_transfer_controller.md R176). -/
def State.storeChannel (s : State) (p : Nat) (c : Channel) (v : Byte) : State :=
  match s.chanAddr p c with
  | some a => s.fbWrite a (applyBrightness v s.brightness)
  | none   => s

/-- Store a colour into the record of pixel `p`: R, G, B, then W (43_transfer_controller.md R176). -/
def State.storePixel (s : State) (p : Nat) (color : ColorWord) : State :=
  (((s.storeChannel p .r (channelOf color .r)).storeChannel p .g (channelOf color .g)).storeChannel p .b
    (channelOf color .b)).storeChannel p .w (channelOf color .w)

/-- Read channel `c` of pixel `p` back, the brightness reversed; 0 where the strip has no such channel
(43_transfer_controller.md R178). -/
def State.loadChannel (s : State) (p : Nat) (c : Channel) : Byte :=
  match s.chanAddr p c with
  | some a => reverseBrightness (s.fbRead a) s.brightness
  | none   => 0

/-- Read the colour of pixel `p` back (43_transfer_controller.md R178). -/
def State.loadPixel (s : State) (p : Nat) : ColorWord :=
  pack (s.loadChannel p .w) (s.loadChannel p .r) (s.loadChannel p .g) (s.loadChannel p .b)

/-! ### Filling one half (41_bitstream_encoder.md R134, R135) -/

/-- zeroHalf(h): H zero entries (41_bitstream_encoder.md R134). -/
def State.zeroHalf (s : State) (h : Half) : State := s.fillHalf h (List.replicate s.halfLen 0)

/-- The encoded entries of the `bpp` FrameBuffer bytes from address `a` (30_encoding.md R87). -/
def State.encodeRecord (s : State) (a : Nat) : List Duty :=
  (List.range s.bpp).flatMap (fun j => s.encodeByte (s.fbRead (a + j)))

/-- The record at the cursor passes the end of the FrameBuffer: only for a cursor that is no multiple of bpp
(41_bitstream_encoder.md R136 (a)). -/
def State.recordPassesEnd (s : State) : Bool := s.cursorInData && decide (s.fbSize < s.outIndex.toNat + s.bpp)

/-- fillUnit(h): the unit at the cursor goes into half `h` and the cursor advances (41_bitstream_encoder.md R135).
A read outside the FrameBuffer is a fault; no run makes one (20_memory.md R52; log 8). -/
def State.fillUnit (s : State) (h : Half) : Except Fault State :=
  if s.recordPassesEnd then .error (.fbAddress s.fbSize)
  else
    let filled := if s.cursorInData then s.fillHalf h (s.encodeRecord s.outIndex.toNat) else s.zeroHalf h
    .ok { filled with outIndex := s.outIndex + BitVec.ofNat 32 s.bpp }

/-! ### The engine's two inputs (60_exceptions.md R203, R204) -/

/-- `emit startPwmDma(DMA, L)`: hw_run <- true, rp <- 0, pend <- none (60_exceptions.md R203). -/
def State.startPwmDma (s : State) : State :=
  { s with hwRun := true, rp := 0, pend := none, outputs := s.outputs ++ [.startPwmDma s.bufLen] }

/-- `emit stopPwmDma()`: hw_run <- false, pend <- none (60_exceptions.md R204). -/
def State.stopPwmDma (s : State) : State :=
  { s with hwRun := false, pend := none, outputs := s.outputs ++ [.stopPwmDma] }

/-! ### start (42_scheduler.md R144) -/

/-- start: prime both halves, enable the events, arm the engine (42_scheduler.md R144). -/
def State.startTransfer (s : State) : Except Fault State :=
  let primed := ({ s with ready := false, phase := .priming } : State).zeroHalf .a
  match ({ primed with outIndex := 0 } : State).fillUnit .b with
  | .error f => .error f
  | .ok t    => .ok { ({ t with irqEn := true } : State).startPwmDma with phase := .streaming }

/-! ### Taking an event and returning from it (60_exceptions.md R199 to R201, R207) -/

/-- Return from a handler: `pend <- none`, and nothing is restored (60_exceptions.md R201, R207). -/
def State.returnFromEvent (s : State) : State := { s with pend := none }

/-- Take event `e`: if it is enabled its handler runs whole, nothing being saved (60_exceptions.md R200), and returns;
if it is not, the call has no meaning (R199). -/
def takeEvent (e : Event) (handler : State → Except Fault State) (s : State) : Host.Outcome State Fault Refusal :=
  if s.eventEnabled e then
    match handler s with
    | .ok t    => .next t.returnFromEvent
    | .error f => .fault f
  else .refused (.spuriousEvent e)

/-! ### Construction (70_reset_and_hazards.md R231) -/

/-- CONSTRUCT: the strip the parameters make, or a refusal for a layout code above 11 (70_reset_and_hazards.md R231,
R233; 30_encoding.md R101). The duty values are taken as they are (R234: "None of (a) to (c) is checked by the block").
No program and no schedule are given (log 1). -/
def construct (p : Params) : Host.Outcome State Fault Refusal :=
  match Layout.ofCode? p.layoutCode with
  | none => .refused (.noSuchLayout p.layoutCode)
  | some layout =>
    .next
      { n := if p.allocOk then p.nReq else 0
        layout := layout
        zeroDuty := p.zeroDuty
        oneDuty := p.oneDuty
        brightness := 0
        fb := []
        dma := []
        outIndex := 0
        ready := true
        phase := .idle
        irqEn := false
        hwRun := false
        rp := 0
        pend := none
        wire := []
        powerUp := p.powerUp
        returned := []
        outputs := []
        prog := []
        turns := []
        todo := []
        loaded := [] }

end Sys2Proof.Machine
end

