-- ==== Sys2Proof/Machine/Color.lean ====
section
/-! DEFINITION. The colour family: SETBRI (40_color_model.md R118). -/

namespace Sys2Proof.Machine

/-- SETBRI: range test, equality test, full wait, rewrite, store (40_color_model.md R118). -/
def execSetBri (data : BitVec 32) (s : State) : Host.Outcome State Fault Refusal :=
  if 255 < data.toNat then .next s.retire
  else
    let b : Byte := data.extractLsb' 0 8
    if b = s.brightness then .next s.retire
    else if s.fullWaitDone then
      let rewritten := s.fbWriteAll ((List.range s.fbSize).map (fun i => rescale (s.fbRead i) s.brightness b))
      .next ({ rewritten with brightness := b } : State).retire
    else .next s

end Sys2Proof.Machine
end

