-- ==== Sys2Proof/Machine/Scheduler.lean ====
section
/-! DEFINITION. The scheduler family: HT, TC, ERR (42_scheduler.md R146, R148, R150). -/

namespace Sys2Proof.Machine

/-- The handler of HT (42_scheduler.md R146). -/
def htHandler (s : State) : Except Fault State :=
  match s.fillUnit .a with
  | .error f => .error f
  | .ok t    => .ok { t with phase := t.phaseAfterFill }

/-- The end of a completed transfer: events off, engine stopped, Complete, ready (42_scheduler.md R148). -/
def State.completeTransfer (s : State) : State :=
  { ({ s with irqEn := false } : State).stopPwmDma with phase := .complete, ready := true }

/-- The handler of TC: refill, then the completion test (42_scheduler.md R148). -/
def tcHandler (s : State) : Except Fault State :=
  match s.fillUnit .b with
  | .error f => .error f
  | .ok t    => .ok (if t.allQueued then t.completeTransfer else { t with phase := t.phaseAfterFill })

/-- The handler of ERR: abort in place (42_scheduler.md R150). -/
def errHandler (s : State) : Except Fault State :=
  .ok { ({ s with irqEn := false } : State).stopPwmDma with ready := true, phase := .idle }

/-- HT (42_scheduler.md R146). -/
def execHt (s : State) : Host.Outcome State Fault Refusal := takeEvent .ht htHandler s

/-- TC (42_scheduler.md R148). -/
def execTc (s : State) : Host.Outcome State Fault Refusal := takeEvent .tc tcHandler s

/-- ERR (42_scheduler.md R150). -/
def execErr (s : State) : Host.Outcome State Fault Refusal := takeEvent .err errHandler s

end Sys2Proof.Machine
end

