-- ==== Sys2Proof/Machine/Transfer.lean ====
section
/-! DEFINITION. The transfer controller: SHOW, CLEAR, WAIT, SETPIX, GETPIX (43_transfer_controller.md R172 to R178).
A command whose wait condition is false is held: it changes nothing and stays the current command (70_reset_and_hazards.md
R246; log 11). -/

namespace Sys2Proof.Machine

/-- SHOW (43_transfer_controller.md R172). -/
def execShow (s : State) : Host.Outcome State Fault Refusal :=
  if s.n = 0 then .next s.retire
  else if s.fullWaitDone then
    match s.startTransfer with
    | .ok t    => .next t.retire
    | .error f => .fault f
  else .next s

/-- CLEAR (43_transfer_controller.md R173). -/
def execClear (s : State) : Host.Outcome State Fault Refusal :=
  if s.fullWaitDone then .next (s.fbWriteAll (List.replicate s.fbSize 0)).retire else .next s

/-- WAIT (43_transfer_controller.md R174). -/
def execWait (s : State) : Host.Outcome State Fault Refusal :=
  if s.fullWaitDone then .next s.retire else .next s

/-- SETPIX: bounds test, cursor wait, store (43_transfer_controller.md R176). -/
def execSetPix (n : BitVec 16) (color : ColorWord) (s : State) : Host.Outcome State Fault Refusal :=
  if s.n ≤ n then .next s.retire
  else if s.cursorWaitDone n.toNat then .next (s.storePixel n.toNat color).retire
  else .next s

/-- GETPIX: never waits (43_transfer_controller.md R178). -/
def execGetPix (n : BitVec 16) (s : State) : Host.Outcome State Fault Refusal :=
  if s.n ≤ n then .next (s.giveResult 0).retire else .next (s.giveResult (s.loadPixel n.toNat)).retire

end Sys2Proof.Machine
end

