-- ==== Sys2Proof/Machine/Dispatch.lean ====
section
/-! DEFINITION. The meaning of every instruction, one arm per constructor of Instr. -/

namespace Sys2Proof.Machine

/-- The meaning of instruction `i` in state `s`. -/
def exec (i : Instr) (s : State) : Host.Outcome State Fault Refusal :=
  match i with
  | .showCmd => Sys2Proof.Machine.execShow s
  | .clearCmd => Sys2Proof.Machine.execClear s
  | .waitCmd => Sys2Proof.Machine.execWait s
  | .setPix n color => Sys2Proof.Machine.execSetPix n color s
  | .getPix n => Sys2Proof.Machine.execGetPix n s
  | .setBri data => Sys2Proof.Machine.execSetBri data s
  | .ht => Sys2Proof.Machine.execHt s
  | .tc => Sys2Proof.Machine.execTc s
  | .err => Sys2Proof.Machine.execErr s

end Sys2Proof.Machine
end

