-- ==== Sys2Proof/Machine/Access.lean ====
section
/-! DEFINITION. Foreground commands access by access (20_memory.md R63, R64, 60_exceptions.md R200, 70_reset_and_hazards.md
R258 (d)): what one access does, the accesses each command makes, and how a command in progress goes on. `exec` is a
command with no event between its accesses; log 4. -/

namespace Sys2Proof.Machine

/-- The last byte the command in progress has read. -/
def State.lastLoaded (s : State) : Byte := s.loaded.getLastD 0

/-- The colour GETPIX returns from the bytes it has read, R, G, B, then W where the strip has one
(43_transfer_controller.md R178). -/
def State.loadedColour (s : State) : ColorWord :=
  let channel (k : Nat) : Byte := (s.loaded[k]?).elim 0 (fun x => reverseBrightness x s.brightness)
  pack (channel 3) (channel 0) (channel 1) (channel 2)

/-- One access (20_memory.md R64: "Each single byte or entry access is indivisible"). -/
def State.perform (s : State) : Access → State
  | .loadFb a          => { s with loaded := s.loaded ++ [s.fbRead a] }
  | .storeFb a v       => s.fbWrite a v
  | .storeScaled a v   => s.fbWrite a (applyBrightness v s.brightness)
  | .storeRescaled a b => { s.fbWrite a (rescale s.lastLoaded s.brightness b) with loaded := [] }
  | .setBrightness b   => { s with brightness := b }
  | .returnColour      => s.giveResult s.loadedColour
  | .returnZero        => s.giveResult 0
  | .clearReady        => { s with ready := false }
  | .enterPriming      => { s with phase := .priming }
  | .zeroEntry e       => s.dmaWrite e 0
  | .storeBit e k      => s.dmaWrite e (s.lut (s.lastLoaded.getLsbD (7 - k)))
  | .setCursor v       => { s with outIndex := v }
  | .enableEvents      => { s with irqEn := true }
  | .startEngine       => { s.startPwmDma with phase := .streaming }

/-- Accesses one after the other, with nothing in between. -/
def State.performAll (s : State) (l : List Access) : State := l.foldl State.perform s

/-- The accesses of start up to arming the engine (42_scheduler.md R144): the flag, the phase, half A, the cursor, half B
from the bytes of pixel 0, the cursor again (0 + bpp), the events. -/
def State.primingAccesses (s : State) : List Access :=
  [.clearReady, .enterPriming]
    ++ (List.range s.halfLen).map (fun e => .zeroEntry (s.halfBase .a + e))
    ++ [.setCursor 0]
    ++ (List.range s.bpp).flatMap (fun j =>
        .loadFb j :: (List.range 8).map (fun k => .storeBit (s.halfBase .b + 8 * j + k) k))
    ++ [.setCursor (BitVec.ofNat 32 s.bpp), .enableEvents]

/-- The accesses a foreground command makes once its tests and its wait are over; none while it waits. The tests and one
reading of the wait's condition are made at once (log 4). An event's instruction is no command and has none. -/
def accessesOf (i : Instr) (s : State) : Option (List Access) :=
  match i with
  | .showCmd =>
    if s.n = 0 then some [] else if s.fullWaitDone then some (s.primingAccesses ++ [.startEngine]) else none
  | .clearCmd =>
    if s.fullWaitDone then some ((List.range s.fbSize).map (fun a => .storeFb a 0)) else none
  | .waitCmd => if s.fullWaitDone then some [] else none
  | .setPix n color =>
    if s.n ≤ n then some []
    else if s.cursorWaitDone n.toNat then
      some ([Channel.r, .g, .b, .w].filterMap (fun c =>
        (s.chanAddr n.toNat c).map (fun a => .storeScaled a (channelOf color c))))
    else none
  | .getPix n =>
    if s.n ≤ n then some [.returnZero]
    else some ([Channel.r, .g, .b, .w].filterMap (fun c => (s.chanAddr n.toNat c).map .loadFb) ++ [.returnColour])
  | .setBri data =>
    if 255 < data.toNat then some []
    else
      let b : Byte := data.extractLsb' 0 8
      if b = s.brightness then some []
      else if s.fullWaitDone then
        some ((List.range s.fbSize).flatMap (fun a => [.loadFb a, .storeRescaled a b]) ++ [.setBrightness b])
      else none
  | .ht => none
  | .tc => none
  | .err => none

/-- The command in progress is over: its local bytes are gone and the foreground goes on to the next command. -/
def State.endCommand (s : State) : State := ({ s with todo := [], loaded := [] } : State).retire

/-- The foreground begins instruction `i`: it is held, or over at once, or its accesses are still to be made. -/
def beginCommand (i : Instr) (s : State) : State :=
  match accessesOf i s with
  | none          => s
  | some []       => s.endCommand
  | some (a :: l) => { s with todo := a :: l }

/-- The next access of the command in progress; the last one ends it. -/
def State.makeAccess (s : State) : State :=
  match s.todo with
  | []          => s
  | [a]         => (s.perform a).endCommand
  | a :: b :: l => { s.perform a with todo := b :: l }

/-- The rest of the command in progress, with nothing in between. -/
def State.finishCommand (s : State) : State := (s.performAll s.todo).endCommand

end Sys2Proof.Machine
end

