-- ==== Sys2Proof/Machine/Engine.lean ====
section
/-! DEFINITION. The reference engine (60_exceptions.md R205 to R212): its step, its error report, its output line. -/

namespace Sys2Proof.Machine

/-- ENGINE_STEP, one bit period, enabled when the engine runs and nothing pends (60_exceptions.md R206); a turn given
to it otherwise does nothing. A read outside the DMA buffer is a fault; no run makes one (log 8). -/
def engineStep (s : State) : Host.Outcome State Fault Refusal :=
  if s.hwRun && decide (s.pend = none) then
    let next := s.rp.toNat + 1
    if s.bufLen < next then .fault (.dmaAddress s.rp.toNat)
    else
      let out : State := { s with wire := s.wire ++ [s.dmaRead s.rp.toNat] }
      if next = s.bufLen then .next { out with rp := 0, pend := some .tc }
      else if next = s.halfLen then .next { out with rp := BitVec.ofNat 6 next, pend := some .ht }
      else .next { out with rp := BitVec.ofNat 6 next }
  else .next s

/-- The engine reports an error: `pend <- ERR`, where the engine runs, events are enabled and nothing pends
(60_exceptions.md R210); at any other time the environment's turn does nothing. -/
def reportError (s : State) : State :=
  if s.hwRun && s.irqEn && decide (s.pend = none) then { s with pend := some .err } else s

/-- The level of the output line `count` timer counts into the current bit period: the entry at `rp` while the engine
runs, low while it is stopped (30_encoding.md R89, 60_exceptions.md R209). -/
def State.lineHigh (s : State) (count : Nat) : Bool := s.hwRun && entryHigh (s.dmaRead s.rp.toNat) count

end Sys2Proof.Machine
end

