-- ==== Sys2Proof/Machine/Fetch.lean ====
section
/-! DEFINITION. Which agent moves next and what it runs (60_exceptions.md R206, R207, R210; 30_encoding.md R95). -/

namespace Sys2Proof.Machine

/-- The event that is delivered next: the pending one, when `irq_en` is true (60_exceptions.md R207); ERR in its place
when the engine reports an error together with it (R198; log 6). -/
def State.dueEvent (s : State) : Option Event :=
  if s.irqEn then
    match s.pend with
    | none   => none
    | some e => if s.turns.head? = some .jointError then some .err else some e
  else none

/-- What happens next. -/
inductive Move where
  /-- Instruction `i` runs in state `s`. -/
  | run (i : Instr) (s : State)
  /-- The stimulus has no meaning. -/
  | refuse (r : Refusal)
  /-- An agent other than an instruction moves, or nothing happens. -/
  | settle (o : Host.Outcome State Fault Refusal)
  deriving Repr

/-- The refusal a word that does not decode ends in (30_encoding.md R100, R102). -/
def refusalOf : DecodeError → Refusal
  | .reservedOp op    => .reservedOp op
  | .reservedField op => .reservedField op

/-- A word presented in context `c` (30_encoding.md R95): it is decoded, and run if it belongs to that context. -/
def presentWord (c : Context) (w : CmdWord) (s : State) : Move :=
  match decode w with
  | .error d => .refuse (refusalOf d)
  | .ok i    => if i.wfIn c then .run i s else .refuse .wrongContext

/-- The foreground's turn. A command in progress goes on: to its end when the turn is `whole`, by one access otherwise.
Else the current word of the program is presented: its instruction runs when the turn is `whole`, and is only begun
otherwise. With no word left nothing happens (30_encoding.md R95, 60_exceptions.md R200; logs 1 and 4). -/
def State.foregroundMove (s : State) (whole : Bool) : Move :=
  match s.todo with
  | _ :: _ => .settle (.next (if whole then s.finishCommand else s.makeAccess))
  | [] =>
    match s.prog with
    | [] => .settle (.next s)
    | w :: _ =>
      match presentWord .foreground w s with
      | .run i t  => if whole then .run i t else .settle (.next (beginCommand i t))
      | .refuse r => .refuse r
      | .settle o => .settle o

/-- A turn, with no event due: an error reported together with an event that is not there does nothing (log 20). -/
def State.turnMove (s : State) : Turn → Move
  | .engine     => .settle (engineStep s)
  | .hwError    => .settle (.next (reportError s))
  | .jointError => .settle (.next s)
  | .foreground => s.foregroundMove true
  | .access     => s.foregroundMove false

/-- The next move: a due event's word in the interrupt context (60_exceptions.md R207), also between two accesses of a
command (R200); else the agent whose turn the schedule says it is; with no turn left nothing happens (log 1). -/
def State.nextMove (s : State) : Move :=
  match s.dueEvent with
  | some e => presentWord .interrupt (encode e.instr) s
  | none =>
    match s.turns with
    | []      => .settle (.next s)
    | x :: ts => ({ s with turns := ts } : State).turnMove x

/-- The event a word stands for, if it is an event's word. -/
def eventOf? (w : CmdWord) : Option Event :=
  match decode w with
  | .ok .ht  => some .ht
  | .ok .tc  => some .tc
  | .ok .err => some .err
  | _        => none

/-- Place word `w` so that the next step presents it: an event's word as the pending event with events enabled and no
error reported beside it; any other word as the foreground's current command, none being in progress, the foreground
having the next turn and no event pending (log 21). -/
def State.placeWord (s : State) (w : CmdWord) : State :=
  match eventOf? w with
  | some e => { s with irqEn := true, pend := some e, turns := s.turns.dropWhile (fun t => t = .jointError) }
  | none   =>
    { s with
      pend := if s.irqEn then none else s.pend
      prog := w :: s.prog
      turns := .foreground :: s.turns
      todo := []
      loaded := [] }

end Sys2Proof.Machine
end

