-- ==== Sys2Proof/Machine/Step.lean ====
section
/-! DEFINITION. One step of the machine, and the placing of a word for the next step to run. -/

namespace Sys2Proof.Machine

/-- One step: one agent moves (00_scope.md R12). -/
def step (s : State) : Host.Outcome State Fault Refusal :=
  match s.nextMove with
  | .run i t  => exec i t
  | .refuse r => .refused r
  | .settle o => o

/-- `s` with the word `w` of `nbits` bits placed so that the next step presents exactly it. -/
def State.withFetchWord (s : State) (nbits w : Nat) : State :=
  match tableWord nbits w with
  | some cw => s.placeWord cw
  | none    => s

end Sys2Proof.Machine
end

