-- ==== Sys2Proof/Safety.lean ====
section
/-! DEFINITION. The terms claims are stated in: units and frames, what a half holds, and the invariant of the machine. -/

namespace Sys2Proof.Machine

/-! ### Units and frames (20_memory.md R57, R58; 30_encoding.md R87, R88) -/

/-- The extended sequence at position `i`: a FrameBuffer byte, or none at a gap position (20_memory.md R57). -/
def State.extended (s : State) (i : Nat) : Option Byte := if i < s.fbSize then some (s.fbRead i) else none

/-- The entries of unit `u`: the encoded record of pixel `u`, or H zero entries for a gap unit (20_memory.md R58,
30_encoding.md R87). -/
def State.unitEntries (s : State) (u : Nat) : List Duty :=
  if u < s.n.toNat then s.encodeRecord (u * s.bpp) else List.replicate s.halfLen 0

/-- K(N), the number of the event that completes a transfer (42_scheduler.md R149). -/
def completionEvent (n : Nat) : Nat := if n % 2 = 1 then n + 1 else n + 2

/-- What one completed transfer puts on the wire: the priming half, the pixels, and one gap unit when N is even
(42_scheduler.md R153). -/
def State.frameWire (s : State) : List Duty :=
  List.replicate s.halfLen 0
    ++ (List.range s.n.toNat).flatMap s.unitEntries
    ++ (if s.n.toNat % 2 = 0 then List.replicate s.halfLen 0 else [])

/-! ### What a half holds after a refill (20_memory.md R55, 41_bitstream_encoder.md R135) -/

/-- In `t`, half `h` holds the unit that was at the cursor of `s`, bit `7 - k` of record byte `j` at entry 8 j + k,
or H zero entries past the pixel data. -/
def HalfHoldsUnit (s t : State) (h : Half) : Prop :=
  (s.outIndex.toNat < s.n.toNat * s.bpp →
    ∀ j < s.bpp, ∀ k < 8,
      t.dmaRead (s.halfBase h + 8 * j + k) =
        if (s.fbRead (s.outIndex.toNat + j)).getLsbD (7 - k) then s.oneDuty else s.zeroDuty) ∧
  (s.n.toNat * s.bpp ≤ s.outIndex.toNat → ∀ e < s.halfLen, t.dmaRead (s.halfBase h + e) = 0)

/-- Every DMA entry outside half `h` reads in `t` as in `s`. -/
def OutsideHalfSame (s t : State) (h : Half) : Prop :=
  ∀ e, ¬(s.halfBase h ≤ e ∧ e < s.halfBase h + s.halfLen) → t.dmaRead e = s.dmaRead e

/-! ### The invariant -/

/-- Exactly the rows of 10_state.md R37. -/
def State.AtObservableRow (s : State) : Prop :=
  (s.phase = .idle ∧ s.ready = true ∧ s.hwRun = false ∧ s.irqEn = false) ∨
  (s.phase = .streaming ∧ s.ready = false ∧ s.hwRun = true ∧ s.irqEn = true) ∨
  (s.phase = .draining ∧ s.ready = false ∧ s.hwRun = true ∧ s.irqEn = true) ∨
  (s.phase = .complete ∧ s.ready = true ∧ s.hwRun = false ∧ s.irqEn = false)

/-- The foreground is inside the body of start, whose last access arms the engine (42_scheduler.md R144). -/
def State.inStart (s : State) : Bool := s.todo.contains .startEngine

/-- The number of events handled in the current transfer: out_index = (k + 1) * bpp (10_state.md R38). -/
def State.eventsHandled (s : State) : Nat := s.outIndex.toNat / s.bpp - 1

/-- After an even number of events the engine is in half A, or has just raised HT (42_scheduler.md R142). -/
def State.EngineInHalfA (s : State) : Prop :=
  s.eventsHandled ≤ s.n.toNat ∧
  (((s.pend = none ∨ s.pend = some .err) ∧ s.rp.toNat < s.halfLen) ∨
   (s.pend = some .ht ∧ s.rp.toNat = s.halfLen))

/-- After an odd number of events the engine is in half B, or has just raised TC (42_scheduler.md R142). -/
def State.EngineInHalfB (s : State) : Prop :=
  s.eventsHandled ≤ s.n.toNat + 1 ∧
  (((s.pend = none ∨ s.pend = some .err) ∧ s.halfLen ≤ s.rp.toNat ∧ s.rp.toNat < s.bufLen) ∨
   (s.pend = some .tc ∧ s.rp.toNat = 0))

/-- A transfer in flight: HT and TC alternate with HT first, and the one that completes has not been handled
(42_scheduler.md R142, R149; 10_state.md R38). -/
structure State.InFlight (s : State) : Prop where
  pixels   : 1 ≤ s.n.toNat
  started  : s.bpp ≤ s.outIndex.toNat
  evenPart : s.eventsHandled % 2 = 0 → s.EngineInHalfA
  oddPart  : s.eventsHandled % 2 = 1 → s.EngineInHalfB

/-- An access a command other than SHOW may still have to make in state `s`: inside the FrameBuffer, and stored before
the cursor or with no transfer active (20_memory.md R52, R67 (a), (b)). -/
def Access.AllowedIn (s : State) : Access → Prop
  | .loadFb a          => a < s.fbSize
  | .storeFb a _       => a < s.fbSize ∧ (s.ready = true ∨ a < s.outIndex.toNat)
  | .storeScaled a _   => a < s.fbSize ∧ (s.ready = true ∨ a < s.outIndex.toNat)
  | .storeRescaled a _ => a < s.fbSize ∧ s.ready = true
  | .setBrightness _   => s.ready = true
  | .returnColour      => True
  | .returnZero        => True
  | .clearReady        => False
  | .enterPriming      => False
  | .zeroEntry _       => False
  | .storeBit _ _      => False
  | .setCursor _       => False
  | .enableEvents      => False
  | .startEngine       => False

/-- An access start makes before it arms the engine: inside the two memories, the cursor set to 0 or bpp, the phase to
Priming (42_scheduler.md R144). -/
def Access.PrimesIn (s : State) : Access → Prop
  | .clearReady        => True
  | .enterPriming      => True
  | .zeroEntry e       => e < s.bufLen
  | .setCursor v       => v.toNat = 0 ∨ v.toNat = s.bpp
  | .loadFb a          => a < s.fbSize
  | .storeBit e _      => e < s.bufLen
  | .enableEvents      => True
  | .storeFb _ _       => False
  | .storeScaled _ _   => False
  | .storeRescaled _ _ => False
  | .setBrightness _   => False
  | .returnColour      => False
  | .returnZero        => False
  | .startEngine       => False

/-- Inside start: what is left of the priming primes, and leaves the state in which the engine may be armed; the engine is
stopped and nothing pends (42_scheduler.md R143, R144, R145 (b)). -/
structure State.Priming (s : State) (left : List Access) : Prop where
  pixels   : 1 ≤ s.n.toNat
  begun    : s.phase = .idle ∨ s.phase = .complete ∨ s.phase = .priming
  engine   : s.hwRun = false
  noEvent  : s.pend = none
  accesses : ∀ a ∈ left, a.PrimesIn s
  notReady : (s.performAll left).ready = false
  phase    : (s.performAll left).phase = .priming
  cursor   : (s.performAll left).outIndex = BitVec.ofNat 32 s.bpp
  events   : (s.performAll left).irqEn = true

/-- The phase is the label R37 and 42_scheduler.md R143 give it outside the body of start: a row of 10_state.md R37, and in
flight Draining exactly when the cursor has passed the pixel data. -/
structure State.Labelled (s : State) : Prop where
  row      : s.AtObservableRow
  draining : s.hwRun = true → (s.phase = .draining ↔ s.n.toNat * s.bpp < s.outIndex.toNat)

/-- The pairs of the table of 42_scheduler.md R143: the phase stays; start goes to Priming, then Streaming when the engine is
armed (a turn that runs SHOW whole does both); a handler's fill past the pixel data makes Draining, TC's past the gap
Complete, ERR Idle. -/
def State.PhaseStep (s t : State) : Prop :=
  t.phase = s.phase ∨
  ((s.phase = .idle ∨ s.phase = .complete) ∧ (t.phase = .priming ∨ t.phase = .streaming) ∧ 1 ≤ s.n.toNat) ∨
  (s.phase = .priming ∧ t.phase = .streaming ∧ t.hwRun = true) ∨
  (s.phase = .streaming ∧ t.phase = .draining ∧ s.n.toNat * s.bpp < t.outIndex.toNat) ∨
  (s.phase = .draining ∧ t.phase = .complete ∧ (s.n.toNat + 2) * s.bpp ≤ t.outIndex.toNat) ∨
  ((s.phase = .streaming ∨ s.phase = .draining) ∧ t.phase = .idle ∧ s.dueEvent = some .err)

/-- What the foreground has still to do of its current command: nothing, or accesses of a command other than SHOW; or the
rest of start, up to the arming of the engine. -/
def State.CommandInOrder (s : State) : Prop :=
  (∀ a ∈ s.todo, a.AllowedIn s) ∨ ∃ left, s.todo = left ++ [.startEngine] ∧ s.Priming left

/-- The invariant: both memories in canonical form and inside their spaces (20_memory.md R50, R53), `rp` below L
(10_state.md R34), the rows of R37 outside the body of start, the cursor a multiple of bpp and within its bounds (R38),
nothing pending while the engine is stopped (R36), the cursor of a completed transfer (42_scheduler.md R149), a transfer in
flight as `InFlight` says, and the command in progress in order (20_memory.md R67, 42_scheduler.md R145). -/
structure State.Inv (s : State) : Prop where
  fbForm   : Memory.wf s.fb
  fbRange  : Memory.below s.fb s.fbSize
  dmaForm  : Memory.wf s.dma
  dmaRange : Memory.below s.dma s.bufLen
  rpRange  : s.rp.toNat < s.bufLen
  labelled : s.inStart = false → s.Labelled
  aligned  : s.outIndex.toNat % s.bpp = 0
  bounded  : s.outIndex.toNat ≤ (s.n.toNat + 3) * s.bpp
  stopped  : s.hwRun = false → s.pend = none
  complete : s.inStart = false → s.phase = .complete → s.outIndex.toNat = (completionEvent s.n.toNat + 1) * s.bpp
  flying   : s.hwRun = true → s.InFlight
  command  : s.CommandInOrder
  locals   : s.todo = [] → s.loaded = []

/-- The next step is one of the foreground's that may clear `ready`: it runs SHOW whole, or goes on with a start that has
not armed the engine. -/
def State.startsNow (s : State) : Prop :=
  s.dueEvent = none ∧
  ((s.turns.head? = some .foreground ∧ s.todo = [] ∧ s.n ≠ 0 ∧ s.ready = true ∧
      ∃ w p, s.prog = w :: p ∧ decode w = .ok .showCmd) ∨
   ((s.turns.head? = some .foreground ∨ s.turns.head? = some .access) ∧ s.inStart = true))

end Sys2Proof.Machine
end

