-- ==== Sys2Proof/Certificates/Slice0/Obligations.lean ====
section
/-! DEFINITION. The statements about the machine. Each docstring names the place of spec/ it formalises; "spec's choice"
marks a clause the spec itself records as its own decision, "log n" one that rests on a decision of the model. -/

open Sys2Proof Sys2Proof.Machine

/-! ### The command word -/

/-- Words of 95_test_vectors.md part 9 decode to what the table there says (spec's choice D25). -/
def Obligations.SpecWordsDecode : Prop :=
  decode 0x01000000000000 = .ok .showCmd ∧ decode 0x02000000000000 = .ok .clearCmd ∧
  decode 0x03000000000000 = .ok .waitCmd ∧ decode 0x040002000000BB = .ok (.setPix 2 0x000000BB) ∧
  decode 0x05000200000000 = .ok (.getPix 2) ∧ decode 0x06000000000080 = .ok (.setBri 128) ∧
  decode 0x10000000000000 = .ok .ht ∧ decode 0x11000000000000 = .ok .tc ∧ decode 0x11000000000001 = .ok .err ∧
  decode 0x07000000000000 = .error (.reservedOp 0x07) ∧ decode 0x01000100000000 = .error (.reservedField 0x01) ∧
  decode 0x11000000000002 = .error (.reservedField 0x11)

/-- Every instruction is read back from its word, with every operand (30_encoding.md section 5, spec's choice D25). -/
def Obligations.DecodeOfEncodeGivesBack : Prop := ∀ i : Instr, decode (encode i) = .ok i

/-- A word that decodes is the word of what it decodes to: no two words mean one instruction (30_encoding.md section 5,
spec's choice D25). -/
def Obligations.DecodedWordIsUnique : Prop := ∀ (w : CmdWord) (i : Instr), decode w = .ok i → encode i = w

/-- A word decodes exactly when its fields pass the check of 30_encoding.md section 5 and 6: a known op, unused fields
zero, data 0 or 1 for op 0x11 (spec's choice D25); otherwise the decoder refuses it. -/
def Obligations.WordDecodesIffWellFormed : Prop :=
  ∀ w : CmdWord,
    ((∃ i, decode w = .ok i) ↔ (cmdFields w).wf = true) ∧
    ((cmdFields w).op.toNat ∉ [0x01, 0x02, 0x03, 0x04, 0x05, 0x06, 0x10, 0x11] →
      decode w = .error (.reservedOp (cmdFields w).op))

/-! ### The step -/

/-- On the foreground's turn to run a command whole, with no event due and no command in progress, the step runs the
instruction its current word decodes to (30_encoding.md section 5; the program and the schedule are the model's own
fields, log 1; a command access by access is StepMakesOneAccess and CommandIsItsAccesses, log 4). -/
def Obligations.StepRunsCurrentCommand : Prop :=
  ∀ (s : State) (ts : List Turn) (w : CmdWord) (p : List CmdWord) (i : Instr),
    s.dueEvent = none → s.turns = .foreground :: ts → s.todo = [] → s.prog = w :: p → decode w = .ok i →
    i.wfIn .foreground = true → step s = exec i { s with turns := ts }

/-- An event that pends while events are enabled is what happens next, also between two accesses of a command: its
instruction runs; ERR runs in its place when an error is reported together with it (60_exceptions.md sections 3, 4 and 6,
spec's choices D19, D20; log 6). -/
def Obligations.StepDeliversPendingEvent : Prop :=
  ∀ (s : State) (e : Event), s.irqEn = true → s.pend = some e →
    (s.turns.head? ≠ some .jointError → step s = exec e.instr s) ∧
    (s.turns.head? = some .jointError → step s = exec .err s)

/-- The turns of the other agents, with no event due, wherever the foreground is in its command: an engine turn is an engine
step, an error turn an error report (60_exceptions.md section 6). An error reported together with an event that is not due,
a foreground with no command in progress and none left, and an empty schedule, change nothing (logs 1, 6, 20). -/
def Obligations.StepOfOtherTurns : Prop :=
  ∀ (s : State) (ts : List Turn), s.dueEvent = none →
    (s.turns = .engine :: ts → step s = engineStep { s with turns := ts }) ∧
    (s.turns = .hwError :: ts → step s = .next (reportError { s with turns := ts })) ∧
    (s.turns = .jointError :: ts → step s = .next { s with turns := ts }) ∧
    (s.turns = .foreground :: ts ∨ s.turns = .access :: ts → s.todo = [] → s.prog = [] →
      step s = .next { s with turns := ts }) ∧
    (s.turns = [] → step s = .next s)

/-- A word with no meaning is refused by name on either turn of the foreground: a reserved word, and a word of an event in
the foreground's program (30_encoding.md sections 5 and 6, spec's choice D25). -/
def Obligations.StepRefusesMeaninglessWord : Prop :=
  ∀ (s : State) (ts : List Turn) (w : CmdWord) (p : List CmdWord),
    s.dueEvent = none → s.turns = .foreground :: ts ∨ s.turns = .access :: ts → s.todo = [] → s.prog = w :: p →
    (∀ op, decode w = .error (.reservedOp op) → step s = .refused (.reservedOp op)) ∧
    (∀ op, decode w = .error (.reservedField op) → step s = .refused (.reservedField op)) ∧
    (∀ e : Event, decode w = .ok e.instr → step s = .refused .wrongContext)

/-! ### The colour model -/

/-- 40_color_model.md R111: unpack reads the four bytes of the word, and is the inverse of pack both ways. -/
def Obligations.UnpackInvertsPack : Prop :=
  (∀ c : ColorWord,
    (channelOf c .w).toNat = c.toNat / 2 ^ 24 ∧ (channelOf c .r).toNat = c.toNat / 2 ^ 16 % 2 ^ 8 ∧
    (channelOf c .g).toNat = c.toNat / 2 ^ 8 % 2 ^ 8 ∧ (channelOf c .b).toNat = c.toNat % 2 ^ 8) ∧
  (∀ w r g b : Byte,
    channelOf (pack w r g b) .w = w ∧ channelOf (pack w r g b) .r = r ∧
    channelOf (pack w r g b) .g = g ∧ channelOf (pack w r g b) .b = b) ∧
  (∀ c : ColorWord, pack (channelOf c .w) (channelOf c .r) (channelOf c .g) (channelOf c .b) = c)

/-- pack is the weighted sum, with no truncation (40_color_model.md section 1). -/
def Obligations.PackIsTheWeightedSum : Prop :=
  ∀ w r g b : Byte, (pack w r g b).toNat = w.toNat * 2 ^ 24 + r.toNat * 2 ^ 16 + g.toNat * 2 ^ 8 + b.toNat

/-- 40_color_model.md R112: applyBrightness, computed without truncation. -/
def Obligations.ApplyBrightnessRoundsToNearest : Prop :=
  ∀ v b : Byte,
    (b = 0 → applyBrightness v b = v) ∧
    (b ≠ 0 → v.toNat * b.toNat + 128 ≤ 65153 ∧ (applyBrightness v b).toNat = (v.toNat * b.toNat + 128) / 2 ^ 8)

/-- reverseBrightness: the rounded quotient, saturated at 255 (40_color_model.md section 1, spec's choice D8, log 12). -/
def Obligations.ReverseBrightnessSaturates : Prop :=
  ∀ s b : Byte,
    (b = 0 → reverseBrightness s b = s) ∧
    (b ≠ 0 → (reverseBrightness s b).toNat = min 255 ((s.toNat * 2 ^ 8 + b.toNat / 2) / b.toNat))

/-- What applyBrightness keeps: at most 254 when scaling, monotone, the identity at 255 up to 128 and one less above
(40_color_model.md section 1, derived there). -/
def Obligations.ApplyBrightnessBounds : Prop :=
  (∀ v b : Byte, b ≠ 0 → (applyBrightness v b).toNat ≤ 254) ∧
  (∀ v v' b : Byte, v.toNat ≤ v'.toNat → (applyBrightness v b).toNat ≤ (applyBrightness v' b).toNat) ∧
  (∀ v : Byte, (v.toNat ≤ 128 → applyBrightness v 255 = v) ∧
    (129 ≤ v.toNat → (applyBrightness v 255).toNat = v.toNat - 1))

/-- A channel set and read back at one brightness comes back within ceil(128 / b), exactly at brightness 0, and a
second pass changes nothing (40_color_model.md section 1, derived there; it rests on the saturation, log 12). -/
def Obligations.BrightnessRoundTripError : Prop :=
  ∀ v b : Byte,
    let rt : Byte → Byte := fun x => reverseBrightness (applyBrightness x b) b
    (b = 0 → rt v = v) ∧
    (b ≠ 0 → (rt v).toNat ≤ v.toNat + (128 + b.toNat - 1) / b.toNat ∧
      v.toNat ≤ (rt v).toNat + (128 + b.toNat - 1) / b.toNat) ∧
    rt (rt v) = rt v ∧ rt 0 = 0

/-! ### Addresses, the duty table and the encoder -/

/-- 20_memory.md R51: the address of a channel is n * bpp + off(C), inside the FrameBuffer for a pixel of the strip. -/
def Obligations.ChannelAddressInFrameBuffer : Prop :=
  ∀ (s : State) (p : Nat) (c : Channel) (o : Nat), chanOff s.layout c = some o →
    s.chanAddr p c = some (p * s.bpp + o) ∧ o < s.bpp ∧ (p < s.n.toNat → p * s.bpp + o < s.n.toNat * s.bpp)

/-- The table of layouts: the code, bpp and the offsets of R, G, B and W of each of the twelve; in every layout the
offsets are a permutation of 0 to bpp - 1, W is there exactly when bpp is 4 and then at offset 0, and the codes 0 to 11
are the twelve layouts (30_encoding.md section 2, spec's choices D5, D6). -/
def Obligations.LayoutOffsetsArePermutation : Prop :=
  (([(0, .rgb, 3, 0, 1, 2, none), (1, .rbg, 3, 0, 2, 1, none), (2, .gbr, 3, 2, 0, 1, none),
      (3, .grb, 3, 1, 0, 2, none), (4, .brg, 3, 1, 2, 0, none), (5, .bgr, 3, 2, 1, 0, none),
      (6, .wrgb, 4, 1, 2, 3, some 0), (7, .wrbg, 4, 1, 3, 2, some 0), (8, .wgbr, 4, 3, 1, 2, some 0),
      (9, .wgrb, 4, 2, 1, 3, some 0), (10, .wbrg, 4, 2, 3, 1, some 0), (11, .wbgr, 4, 3, 2, 1, some 0)] :
      List (Nat × Layout × Nat × Nat × Nat × Nat × Option Nat)).Forall
    fun (code, l, bpp, r, g, b, w) => Layout.ofCode? code = some l ∧ (layoutRow l).bpp = bpp ∧
      chanOff l .r = some r ∧ chanOff l .g = some g ∧ chanOff l .b = some b ∧ chanOff l .w = w) ∧
  (∀ l : Layout,
    ([Channel.r, .g, .b, .w].filterMap (chanOff l)).Perm (List.range (layoutRow l).bpp) ∧
    (chanOff l .w = if (layoutRow l).bpp = 4 then some 0 else none)) ∧
  (∀ l : Layout, ∃ code ≤ 11, Layout.ofCode? code = some l) ∧ (∀ code, 11 < code → Layout.ofCode? code = none)

/-- 41_bitstream_encoder.md R132: encodeByte gives eight duties, d_k from bit 7 - k, none of them anything but
ZERO_DUTY and ONE_DUTY. -/
def Obligations.EncodeByteMsbFirst : Prop :=
  ∀ (s : State) (x : Byte),
    (s.encodeByte x).length = 8 ∧
    (∀ k < 8, (s.encodeByte x)[k]? = some (if x.getLsbD (7 - k) then s.oneDuty else s.zeroDuty)) ∧
    (∀ d ∈ s.encodeByte x, d = s.zeroDuty ∨ d = s.oneDuty)

/-- Two bytes that encode to the same duties are equal, and the one-duty entries count the 1 bits
(41_bitstream_encoder.md section 2, derived there). -/
def Obligations.EncodeByteInjective : Prop :=
  ∀ s : State, s.zeroDuty ≠ s.oneDuty →
    (∀ x y : Byte, s.encodeByte x = s.encodeByte y → x = y) ∧
    (∀ x : Byte, (s.encodeByte x).count s.oneDuty = ((List.range 8).filter (fun i => x.getLsbD i)).length)

/-- 41_bitstream_encoder.md R134: zeroHalf writes H zero entries into its half and changes nothing else. -/
def Obligations.ZeroHalfWritesZeroEntries : Prop :=
  ∀ (s : State) (h : Half),
    s.zeroHalf h = { s with dma := (s.zeroHalf h).dma } ∧
    (∀ e < s.halfLen, (s.zeroHalf h).dmaRead (s.halfBase h + e) = 0) ∧ OutsideHalfSame s (s.zeroHalf h) h

/-- 41_bitstream_encoder.md R135: fillUnit puts the unit at the cursor into its half and adds bpp to the cursor. The
cursor is a multiple of bpp, as it is in every run (10_state.md R38). -/
def Obligations.FillUnitEncodesTheUnit : Prop :=
  ∀ (s : State) (h : Half), s.outIndex.toNat % s.bpp = 0 →
    ∃ t, s.fillUnit h = .ok t ∧
      t = { s with dma := t.dma, outIndex := s.outIndex + BitVec.ofNat 32 s.bpp } ∧
      HalfHoldsUnit s t h ∧ OutsideHalfSame s t h

/-! ### The events -/

/-- HT refills half A with the unit at the cursor, advances the cursor and sets the phase (42_scheduler.md section 3,
R146); it changes nothing else but the pending event, which is over when the handler is (60_exceptions.md section 6,
R207, spec's choice D19); it is enabled when irq_en is true and it pends (60_exceptions.md section 3, R199, spec's choice
D21; log 7), and never with irq_en false. -/
def Obligations.HtRefillsFirstHalf : Prop :=
  ∀ s : State,
    (s.irqEn = true → s.pend = some .ht → s.outIndex.toNat % s.bpp = 0 →
      ∃ t, exec .ht s = .next t ∧
        t = { s with
          dma := t.dma
          outIndex := s.outIndex + BitVec.ofNat 32 s.bpp
          phase := if s.n.toNat * s.bpp < (s.outIndex + BitVec.ofNat 32 s.bpp).toNat then .draining else .streaming
          pend := none } ∧
        HalfHoldsUnit s t .a ∧ OutsideHalfSame s t .a) ∧
    (s.irqEn = false → ∀ t, exec .ht s ≠ .next t)

/-- TC refills half B, advances the cursor, and then either ends the transfer (events off, engine stopped, Complete,
ready) or sets the phase (42_scheduler.md section 4, R148); it changes nothing else but the pending event, which
stopPwmDma clears (60_exceptions.md section 5, R204) and which is over when the handler is (section 6, R207, spec's
choice D19); it is enabled when irq_en is true and it pends (section 3, R199, spec's choice D21; log 7), and never with
irq_en false. -/
def Obligations.TcRefillsSecondHalfOrCompletes : Prop :=
  ∀ s : State,
    (s.irqEn = true → s.pend = some .tc → s.outIndex.toNat % s.bpp = 0 →
      ∃ t, exec .tc s = .next t ∧ HalfHoldsUnit s t .b ∧ OutsideHalfSame s t .b ∧
        ((s.n.toNat + 2) * s.bpp ≤ (s.outIndex + BitVec.ofNat 32 s.bpp).toNat →
          t = { s with
            dma := t.dma
            outIndex := s.outIndex + BitVec.ofNat 32 s.bpp
            irqEn := false
            hwRun := false
            phase := .complete
            ready := true
            pend := none
            outputs := s.outputs ++ [.stopPwmDma] }) ∧
        ((s.outIndex + BitVec.ofNat 32 s.bpp).toNat < (s.n.toNat + 2) * s.bpp →
          t = { s with
            dma := t.dma
            outIndex := s.outIndex + BitVec.ofNat 32 s.bpp
            phase := if s.n.toNat * s.bpp < (s.outIndex + BitVec.ofNat 32 s.bpp).toNat then .draining else .streaming
            pend := none })) ∧
    (s.irqEn = false → ∀ t, exec .tc s ≠ .next t)

/-- ERR aborts, whatever the phase and the cursor: events off, engine stopped, ready, Idle; it refills nothing and keeps
out_index, FB, DMA and brightness (42_scheduler.md section 5, R150); stopPwmDma clears the pending event
(60_exceptions.md section 5, R204). It runs in preference to a due TC or HT (60_exceptions.md section 3, R198, spec's
choice D20), and is enabled when irq_en is true and it pends, or HT or TC does, beside which it is reported (section 3,
R198, R199, spec's choices D20, D21; log 7); never with irq_en false or with nothing pending. -/
def Obligations.ErrAbortsInPlace : Prop :=
  ∀ s : State,
    (s.irqEn = true → s.pend ≠ none →
      exec .err s = .next { s with
        irqEn := false
        hwRun := false
        ready := true
        phase := .idle
        pend := none
        outputs := s.outputs ++ [.stopPwmDma] }) ∧
    (s.irqEn = false ∨ s.pend = none → ∀ t, exec .err s ≠ .next t)

/-- An event that is not enabled has no meaning and is refused by name: any event with irq_en false or with nothing
pending, HT or TC that does not pend; so, in a state with the invariant, any event while the phase is Idle or Complete,
which it is after a completing TC or an ERR, and any event inside start before the engine is armed (60_exceptions.md section
3, R199, spec's choice D21; log 7). -/
def Obligations.DisabledEventIsRefused : Prop :=
  ∀ (s : State) (e : Event),
    (s.irqEn = false → exec e.instr s = .refused (.spuriousEvent e)) ∧
    (s.pend = none → exec e.instr s = .refused (.spuriousEvent e)) ∧
    (e ≠ .err → s.pend ≠ some e → exec e.instr s = .refused (.spuriousEvent e)) ∧
    (s.Inv → s.phase = .idle ∨ s.phase = .complete ∨ s.inStart = true → exec e.instr s = .refused (.spuriousEvent e))

/-- After an ERR the abort test of 42_scheduler.md section 5 answers true exactly when the cursor is short of full
length, after a completing TC it answers false (derived there). -/
def Obligations.AbortTestTellsAbortFromCompletion : Prop :=
  ∀ s t : State,
    (exec .err s = .next t → (t.looksAborted = true ↔ s.outIndex.toNat < (s.n.toNat + 2) * s.bpp)) ∧
    (exec .tc s = .next t → t.phase = .complete → t.looksAborted = false)

/-! ### The foreground commands -/

/-- SHOW on an idle strip with pixels primes half A with zeros, puts pixel 0 into half B, and starts the engine with
L entries; the cursor becomes bpp and nothing else changes (42_scheduler.md section 2, 43_transfer_controller.md
section 2, spec's choices D14, D16, D17). -/
def Obligations.ShowStartsTransfer : Prop :=
  ∀ s : State, s.n ≠ 0 → s.ready = true →
    ∃ t, exec .showCmd s = .next t ∧
      t = { s with
        dma := t.dma
        outIndex := BitVec.ofNat 32 s.bpp
        ready := false
        phase := .streaming
        irqEn := true
        hwRun := true
        rp := 0
        pend := none
        outputs := s.outputs ++ [.startPwmDma (16 * s.bpp)]
        prog := s.prog.tail } ∧
      (∀ e < s.halfLen, t.dmaRead e = 0) ∧
      (∀ j < s.bpp, ∀ k < 8,
        t.dmaRead (s.halfLen + 8 * j + k) = if (s.fbRead j).getLsbD (7 - k) then s.oneDuty else s.zeroDuty) ∧
      (∀ e, 16 * s.bpp ≤ e → t.dmaRead e = s.dmaRead e)

/-- SHOW on a strip of no pixels does nothing, ready or not (43_transfer_controller.md section 2, spec's choice D13). -/
def Obligations.ShowOnEmptyStripDoesNothing : Prop :=
  ∀ s : State, s.n = 0 → exec .showCmd s = .next { s with prog := s.prog.tail }

/-- CLEAR on an idle strip makes every FrameBuffer byte 0 and changes nothing else (43_transfer_controller.md section 2,
spec's choice D31). -/
def Obligations.ClearZeroesFrameBuffer : Prop :=
  ∀ s : State, s.ready = true →
    ∃ t, exec .clearCmd s = .next t ∧ t = { s with fb := t.fb, prog := s.prog.tail } ∧
      (∀ a < s.n.toNat * s.bpp, t.fbRead a = 0) ∧ (∀ a, s.n.toNat * s.bpp ≤ a → t.fbRead a = s.fbRead a)

/-- WAIT on an idle strip returns at once and changes nothing; during a transfer it is held
(43_transfer_controller.md section 2). -/
def Obligations.WaitReturnsWhenReady : Prop :=
  ∀ s : State,
    (s.ready = true → exec .waitCmd s = .next { s with prog := s.prog.tail }) ∧
    (s.ready = false → exec .waitCmd s = .next s)

/-- SETPIX of a pixel of the strip, with its cursor wait over, stores each channel the strip has, scaled by the
brightness, at its address, and changes no other byte and nothing else (43_transfer_controller.md sections 1 and 2,
spec's choices D7, D15). -/
def Obligations.SetPixStoresRecord : Prop :=
  ∀ (s : State) (n : BitVec 16) (color : ColorWord), n.toNat < s.n.toNat →
    (s.ready = true ∨ (n.toNat + 1) * s.bpp ≤ s.outIndex.toNat) →
    ∃ t, exec (.setPix n color) s = .next t ∧ t = { s with fb := t.fb, prog := s.prog.tail } ∧
      (∀ c a, s.chanAddr n.toNat c = some a → t.fbRead a = applyBrightness (channelOf color c) s.brightness) ∧
      (∀ a, (∀ c, s.chanAddr n.toNat c ≠ some a) → t.fbRead a = s.fbRead a)

/-- SETPIX out of range does nothing and waits for nothing (43_transfer_controller.md section 2, spec's choice D15). -/
def Obligations.SetPixOutOfRangeIsSilent : Prop :=
  ∀ (s : State) (n : BitVec 16) (color : ColorWord), s.n.toNat ≤ n.toNat →
    exec (.setPix n color) s = .next { s with prog := s.prog.tail }

/-- GETPIX returns the packed channels with the brightness reversed, W being 0 when the strip has none, and 0 out of
range; it never waits and changes nothing else (43_transfer_controller.md section 2, spec's choices D7, D30). W is at
offset 0 of the record (30_encoding.md section 2, spec's choice D5); reversing the brightness saturates (spec's choice D8,
log 12); `returned` is the model's field (log 10). -/
def Obligations.GetPixReturnsColour : Prop :=
  ∀ (s : State) (n : BitVec 16),
    (n.toNat < s.n.toNat →
      exec (.getPix n) s = .next { s with
        returned := s.returned ++
          [pack
            (if s.bpp = 4 then reverseBrightness (s.fbRead (n.toNat * s.bpp)) s.brightness else 0)
            (reverseBrightness (s.fbRead (n.toNat * s.bpp + (layoutRow s.layout).r)) s.brightness)
            (reverseBrightness (s.fbRead (n.toNat * s.bpp + (layoutRow s.layout).g)) s.brightness)
            (reverseBrightness (s.fbRead (n.toNat * s.bpp + (layoutRow s.layout).b)) s.brightness)]
        prog := s.prog.tail }) ∧
    (s.n.toNat ≤ n.toNat →
      exec (.getPix n) s = .next { s with returned := s.returned ++ [0], prog := s.prog.tail })

/-- SETBRI of a new value on an idle strip rescales every FrameBuffer byte from the old brightness to the new one and
stores the new one (40_color_model.md section 2, spec's choices D9, D34; log 12). -/
def Obligations.SetBriRescalesEveryByte : Prop :=
  ∀ (s : State) (data : BitVec 32) (b : Byte), data.toNat = b.toNat → b ≠ s.brightness → s.ready = true →
    ∃ t, exec (.setBri data) s = .next t ∧ t = { s with fb := t.fb, brightness := b, prog := s.prog.tail } ∧
      (∀ a < s.n.toNat * s.bpp, t.fbRead a = applyBrightness (reverseBrightness (s.fbRead a) s.brightness) b) ∧
      (∀ a, s.n.toNat * s.bpp ≤ a → t.fbRead a = s.fbRead a)

/-- SETBRI above 255 and SETBRI of the current brightness change nothing and wait for nothing (40_color_model.md
section 2, spec's choices D29, D34). -/
def Obligations.SetBriIgnoredOrEqual : Prop :=
  ∀ (s : State) (data : BitVec 32), (255 < data.toNat ∨ data.toNat = s.brightness.toNat) →
    exec (.setBri data) s = .next { s with prog := s.prog.tail }

/-- A command whose wait condition is false is held: it changes nothing, and it stays the current command
(70_reset_and_hazards.md section 4, spec's choice D38; log 11). -/
def Obligations.BusyCommandsAreHeld : Prop :=
  ∀ s : State, s.ready = false →
    exec .waitCmd s = .next s ∧ exec .clearCmd s = .next s ∧ (s.n ≠ 0 → exec .showCmd s = .next s) ∧
    (∀ data : BitVec 32, data.toNat ≤ 255 → data.toNat ≠ s.brightness.toNat → exec (.setBri data) s = .next s) ∧
    (∀ (n : BitVec 16) (color : ColorWord), n.toNat < s.n.toNat → s.outIndex.toNat < (n.toNat + 1) * s.bpp →
      exec (.setPix n color) s = .next s)

/-- A colour set at brightness 0 is read back exactly on a strip with white, and without its W field on a strip without
(43_transfer_controller.md section 2, derived there). -/
def Obligations.SetThenGetReturnsTheColour : Prop :=
  ∀ (s : State) (n : BitVec 16) (color : ColorWord), s.brightness = 0 → n.toNat < s.n.toNat →
    (s.ready = true ∨ (n.toNat + 1) * s.bpp ≤ s.outIndex.toNat) →
    ∃ t u, exec (.setPix n color) s = .next t ∧ exec (.getPix n) t = .next u ∧
      u.returned = s.returned ++ [if s.bpp = 4 then color else color &&& 0x00FFFFFF]

/-- After CLEAR every pixel reads as 0, at every brightness (43_transfer_controller.md section 2, derived there). -/
def Obligations.ClearThenGetReturnsZero : Prop :=
  ∀ s : State, s.ready = true →
    ∃ t, exec .clearCmd s = .next t ∧
      ∀ n : BitVec 16, ∃ u, exec (.getPix n) t = .next u ∧ u.returned = s.returned ++ [0]

/-! ### The engine -/

/-- One engine step puts the entry at rp on the wire, advances rp with the wrap at L, and raises HT at H and TC at the
wrap; it is enabled only while the engine runs and nothing pends (60_exceptions.md section 6, spec's choice D19). -/
def Obligations.EngineStepPutsOutOneEntry : Prop :=
  ∀ s : State,
    (s.hwRun = true → s.pend = none → s.rp.toNat < 16 * s.bpp →
      ∃ t, engineStep s = .next t ∧
        t = { s with wire := s.wire ++ [s.dmaRead s.rp.toNat], rp := t.rp, pend := t.pend } ∧
        t.rp.toNat = (if s.rp.toNat + 1 = 16 * s.bpp then 0 else s.rp.toNat + 1) ∧
        t.pend = (if s.rp.toNat + 1 = 8 * s.bpp then some .ht
                  else if s.rp.toNat + 1 = 16 * s.bpp then some .tc else none)) ∧
    (s.hwRun = false ∨ s.pend ≠ none → engineStep s = .next s)

/-- An error is raised only while the engine runs with events enabled and nothing pends, and then it pends
(60_exceptions.md section 6, spec's choice D20). -/
def Obligations.ErrorIsRaisedOnlyWhileRunning : Prop :=
  ∀ s : State,
    (s.hwRun = true ∧ s.irqEn = true ∧ s.pend = none → reportError s = { s with pend := some .err }) ∧
    (¬(s.hwRun = true ∧ s.irqEn = true ∧ s.pend = none) → reportError s = s)

/-- The level of the output line: low while the engine is stopped; while it runs, high for as many timer counts of the
bit period as the entry at rp says and then low, so low throughout for a zero entry (30_encoding.md section 4,
60_exceptions.md section 6, spec's choice D22; log 18). -/
def Obligations.OutputLineLevel : Prop :=
  ∀ (s : State) (count : Nat),
    (s.hwRun = false → s.lineHigh count = false) ∧
    (s.hwRun = true → (s.lineHigh count = true ↔ count < (s.dmaRead s.rp.toNat).toNat)) ∧
    (s.dmaRead s.rp.toNat = 0 → s.lineHigh count = false)

/-- The wire grows by one entry at an engine step of a running engine, the entry at rp, and is changed by nothing else
(10_state.md section 6, 60_exceptions.md section 6, spec's choices D19, D22). -/
def Obligations.OnlyTheEngineWritesTheWire : Prop :=
  ∀ s t : State, step s = .next t →
    t.wire = s.wire ∨
    (s.hwRun = true ∧ s.pend = none ∧ s.turns.head? = some .engine ∧ t.wire = s.wire ++ [s.dmaRead s.rp.toNat])

/-! ### Construction -/

/-- Construction: the values of 70_reset_and_hazards.md section 1, N being 0 when the allocation fails, and a refusal
for a layout code above 11 (spec's choices D6, D10, D12, D33; the memories list nothing and the free values are those
the parameter selects, log 3; no program, no schedule and no command in progress, logs 1 and 4). The reset state is the
construction of 95_test_vectors.md part 8 (the parameters are the model's choice, log 2). -/
def Obligations.ConstructGivesResetValues : Prop :=
  (∀ p : Params,
    (p.layoutCode ≤ 11 → ∃ s, construct p = .next s ∧ Layout.ofCode? p.layoutCode = some s.layout ∧
      s.n = (if p.allocOk then p.nReq else 0) ∧ s.zeroDuty = p.zeroDuty ∧ s.oneDuty = p.oneDuty ∧
      s.brightness = 0 ∧ s.outIndex = 0 ∧ s.ready = true ∧ s.phase = .idle ∧ s.irqEn = false ∧ s.hwRun = false ∧
      s.rp = 0 ∧ s.pend = none ∧ s.wire = [] ∧ s.fb = [] ∧ s.dma = [] ∧ s.powerUp = p.powerUp ∧ s.returned = [] ∧
      s.outputs = [] ∧ s.prog = [] ∧ s.turns = [] ∧ s.todo = [] ∧ s.loaded = []) ∧
    (11 < p.layoutCode → construct p = .refused (.noSuchLayout p.layoutCode))) ∧
  construct ⟨3, true, 3, 25, 50, 0⟩ = .next State.reset

/-! ### Whole-machine rules -/

/-- The reset state has the invariant (10_state.md section 7, R37, R38; 70_reset_and_hazards.md section 1). The reset state is a strip with parameters the model chose (DESIGN CHOICE, log 2), its values those of
95_test_vectors.md part 8. -/
def Obligations.ResetMeetsInvariant : Prop := State.reset.Inv

/-- Every strip that can be constructed has the invariant, whatever program and schedule it is given
(70_reset_and_hazards.md section 1; log 1). -/
def Obligations.ConstructedStripMeetsInvariant : Prop :=
  ∀ (p : Params) (s : State) (cs : List CmdWord) (ts : List Turn), construct p = .next s →
    ({ s with prog := cs, turns := ts } : State).Inv

/-- Every step keeps the invariant, also the steps of one access and the events between two of them: canonical memories
inside their spaces, rp below L, the rows of the table of observable states outside start, the cursor a multiple of bpp
within its bounds, HT and TC alternating, the cursor of a completed transfer, and the accesses still to be made inside the memories
and before the cursor (derived in 10_state.md section 7, 42_scheduler.md sections 1 and 4 and 20_memory.md section 5). -/
def Obligations.StepKeepsInvariant : Prop := ∀ s t : State, s.Inv → step s = .next t → t.Inv

/-- No command and no event can fault, and the only stimulus refused is a word of the foreground's program that is
reserved or an event's, with no command in progress (60_exceptions.md section 1, derived there). -/
def Obligations.NothingFaultsUnderInvariant : Prop :=
  ∀ s : State, s.Inv →
    (∀ f, step s ≠ .fault f) ∧
    (∀ r, step s = .refused r →
      s.todo = [] ∧ ∃ w p, s.prog = w :: p ∧ ∀ i, decode w = .ok i → i.context = .interrupt)

/-- No step changes the configuration: the pixel count, the layout, the two duties (10_state.md section 2). -/
def Obligations.ConfigurationIsFixed : Prop :=
  ∀ s t : State, step s = .next t →
    t.n = s.n ∧ t.layout = s.layout ∧ t.zeroDuty = s.zeroDuty ∧ t.oneDuty = s.oneDuty

/-- The interrupt context never writes FB or brightness, and touches neither the wire nor the engine's read pointer nor
the foreground (60_exceptions.md section 7). -/
def Obligations.InterruptContextWrites : Prop :=
  ∀ (s t : State) (e : Event), exec e.instr s = .next t →
    t = { s with
      dma := t.dma
      outIndex := t.outIndex
      ready := t.ready
      phase := t.phase
      irqEn := t.irqEn
      hwRun := t.hwRun
      pend := t.pend
      outputs := t.outputs }

/-- A foreground command other than SHOW writes FB and brightness only, beside the result it returns and the program
(60_exceptions.md section 7). -/
def Obligations.ForegroundContextWrites : Prop :=
  ∀ (s t : State) (i : Instr), i.context = .foreground → i ≠ .showCmd → exec i s = .next t →
    t = { s with fb := t.fb, brightness := t.brightness, returned := t.returned, prog := t.prog }

/-- The engine is started only while it is stopped, with L entries, and stopped only while it runs
(60_exceptions.md section 5; `outputs` is the model's field, log 10). -/
def Obligations.EngineStartsOnlyWhileStopped : Prop :=
  ∀ s t : State, s.Inv → step s = .next t →
    (t.outputs = s.outputs ∧ t.hwRun = s.hwRun) ∨
    (t.outputs = s.outputs ++ [.startPwmDma (16 * s.bpp)] ∧ s.hwRun = false ∧ t.hwRun = true) ∨
    (t.outputs = s.outputs ++ [.stopPwmDma] ∧ s.hwRun = true ∧ t.hwRun = false)

/-- Once a wait's condition is true it stays true until the foreground's next SHOW (70_reset_and_hazards.md section 4):
every step keeps it but one that runs a SHOW which does not wait. -/
def Obligations.WaitConditionsLast : Prop :=
  ∀ s t : State, s.Inv → step s = .next t → ¬s.startsNow →
    (s.ready = true → t.ready = true) ∧ (∀ p, s.cursorWaitDone p = true → t.cursorWaitDone p = true)

/-- While a transfer is in flight no step changes a FrameBuffer byte at or after the cursor: the frame sent is the
FrameBuffer as it stood when SHOW returned (20_memory.md section 5, 43_transfer_controller.md section 2). -/
def Obligations.FrameInFlightIsProtected : Prop :=
  ∀ s t : State, s.Inv → s.ready = false → step s = .next t →
    ∀ a, s.outIndex.toNat ≤ a → t.fbRead a = s.fbRead a

/-- A handler never writes the half of the DMA buffer the engine is about to read (20_memory.md section 5,
70_reset_and_hazards.md section 3). -/
def Obligations.HandlerSparesTheHalfBeingRead : Prop :=
  ∀ (s t : State) (e : Event), s.Inv → s.dueEvent = some e → step s = .next t →
    ∀ x < 16 * s.bpp, (s.rp.toNat < 8 * s.bpp ↔ x < 8 * s.bpp) → t.dmaRead x = s.dmaRead x

/-- During a transfer a handler and an access of a command other than SHOW commute, whichever comes first: preempting a
command between two of its accesses changes nothing but the order (20_memory.md sections 4 and 5, 43_transfer_controller.md
section 2). So do a handler and a store to any byte before the cursor. -/
def Obligations.HandlerCommutesWithEarlierStore : Prop :=
  (∀ (s t : State) (e : Event) (a : Access), a.AllowedIn s → s.ready = false → exec e.instr s = .next t →
    exec e.instr (s.perform a) = .next (t.perform a)) ∧
  (∀ (s t : State) (e : Event) (a : Nat) (v : Byte), a < s.outIndex.toNat → exec e.instr s = .next t →
    exec e.instr (s.fbWrite a v) = .next (t.fbWrite a v))

/-- With the engine armed but stalled and no error reported, a wait that has begun never ends: ready stays false and the
cursor stays where it is, so the full wait and the cursor wait of a pixel stay false (70_reset_and_hazards.md section 4). -/
def Obligations.StalledEngineNeverReady : Prop :=
  ∀ (s t : State) (k : Nat), s.Inv → s.inStart = false → s.ready = false → s.pend = none →
    (∀ x ∈ s.turns, x = .foreground ∨ x = .access) → Host.Core.run Sys2Proof.core k s = .next t →
    t.ready = false ∧ t.outIndex = s.outIndex ∧ (∀ p, s.cursorWaitDone p = false → t.cursorWaitDone p = false)

/-- During a transfer without errors, after k * H engine steps the k-th event has been handled: the cursor stands at
(k + 1) * bpp, and the wire has grown by the first k halves of the frame. The foreground runs any program of commands
other than SHOW meanwhile, each command whole or access by access, interleaved with the engine in any way
(10_state.md section 7, 42_scheduler.md sections 4 and 6, 43_transfer_controller.md section 2, 70_reset_and_hazards.md
section 4; spec's choice D19; the program and the schedule are the model's fields, logs 1 and 4). -/
def Obligations.EventsAdvanceTheCursor : Prop :=
  ∀ (s t : State) (ts : List Turn) (p : List CmdWord) (k : Nat),
    s.Inv → s.todo = [] → s.ready = true → s.n ≠ 0 → exec .showCmd s = .next t →
    (∀ x ∈ ts, x ≠ .hwError ∧ x ≠ .jointError) →
    (∀ w ∈ p, ∃ i, decode w = .ok i ∧ i.context = .foreground ∧ i ≠ .showCmd) →
    k < completionEvent s.n.toNat → ts.count .engine = k * s.halfLen →
    ∃ u, Host.Core.run Sys2Proof.core (ts.length + k) { t with turns := ts, prog := p } = .next u ∧
      u.turns = [] ∧ u.ready = false ∧ u.pend = none ∧ u.outIndex.toNat = (k + 1) * s.bpp ∧
      u.wire = s.wire ++ s.frameWire.take (k * s.halfLen)

/-- A transfer without errors runs to completion after exactly K(N) * H engine steps, and puts out the priming half,
every pixel in order as the FrameBuffer held it at SHOW, and for even N one gap unit, whatever program of commands other
than SHOW the foreground runs meanwhile, each command whole or access by access, interleaved with the engine in any way
(42_scheduler.md sections 4 and 6, 43_transfer_controller.md section 2, 70_reset_and_hazards.md sections 4 and 5; spec's
choice D19; the program, the schedule and the list of calls are the model's fields, logs 1, 4 and 10). -/
def Obligations.TransferSendsTheFrame : Prop :=
  ∀ (s t : State) (ts : List Turn) (p : List CmdWord),
    s.Inv → s.todo = [] → s.ready = true → s.n ≠ 0 → exec .showCmd s = .next t →
    (∀ x ∈ ts, x ≠ .hwError ∧ x ≠ .jointError) →
    (∀ w ∈ p, ∃ i, decode w = .ok i ∧ i.context = .foreground ∧ i ≠ .showCmd) →
    ts.count .engine = completionEvent s.n.toNat * s.halfLen →
    ∃ u, Host.Core.run Sys2Proof.core (ts.length + completionEvent s.n.toNat) { t with turns := ts, prog := p } =
        .next u ∧
      u.turns = [] ∧ u.ready = true ∧ u.phase = .complete ∧ u.hwRun = false ∧ u.irqEn = false ∧ u.pend = none ∧
      u.rp = 0 ∧ u.outIndex.toNat = (completionEvent s.n.toNat + 1) * s.bpp ∧ u.wire = s.wire ++ s.frameWire ∧
      u.outputs = s.outputs ++ [.startPwmDma s.bufLen, .stopPwmDma]

/-! ### Commands access by access -/

/-- One access a step: on such a turn with no event due the foreground makes the next access of the command in progress,
the last one ending it, or begins its current command; on a turn to run whole it makes all that is left
(60_exceptions.md section 4, spec's choice D28; log 4). -/
def Obligations.StepMakesOneAccess : Prop :=
  ∀ (s : State) (ts : List Turn), s.dueEvent = none →
    (s.turns = .access :: ts →
      (∀ a, s.todo = [a] → step s = .next ({ s with turns := ts }.perform a).endCommand) ∧
      (∀ a b l, s.todo = a :: b :: l →
        step s = .next { { s with turns := ts }.perform a with todo := b :: l }) ∧
      (∀ w p i, s.todo = [] → s.prog = w :: p → decode w = .ok i → i.context = .foreground →
        step s = .next (beginCommand i { s with turns := ts }))) ∧
    (s.turns = .foreground :: ts → s.todo ≠ [] →
      step s = .next ({ s with turns := ts }.performAll s.todo).endCommand)

/-- A command is its accesses: what `exec` says of a foreground command is that it is held, or that it makes its accesses
one after the other and is over; and access by access with nothing in between it ends in the same state
(20_memory.md section 4, 60_exceptions.md section 4, spec's choice D28; log 4). -/
def Obligations.CommandIsItsAccesses : Prop :=
  ∀ (s : State) (i : Instr), i.context = .foreground → s.todo = [] → s.loaded = [] →
    (accessesOf i s = none → exec i s = .next s) ∧
    (∀ l, accessesOf i s = some l →
      exec i s = .next (s.performAll l).endCommand ∧
      ∀ (p : List CmdWord) (ts : List Turn), s.pend = none →
        Host.Core.run Sys2Proof.core (l.length + 1)
            { s with prog := encode i :: p, turns := List.replicate (l.length + 1) .access ++ ts } =
          exec i { s with prog := encode i :: p, turns := ts })

/-- At every point of every run, however the agents interleave: outside the body of start exactly one row of the table of
10_state.md section 7 holds, so the strip is ready exactly when its phase is Idle or Complete, and in flight the phase is
Draining exactly when the cursor has passed the pixel data; the phase Priming is inside start; inside start, and with the
engine stopped, nothing pends and no event is delivered (42_scheduler.md section 2, R145 (b); log 25). The next step moves
the phase as the table of 42_scheduler.md section 1 has it: a pair it does not list does not occur. -/
def Obligations.ObservableRowsHold : Prop :=
  ∀ (s t : State) (k : Nat), s.Inv → Host.Core.run Sys2Proof.core k s = .next t →
    (t.inStart = false → t.AtObservableRow ∧ (t.ready = true ↔ t.phase = .idle ∨ t.phase = .complete) ∧
      (t.hwRun = true → (t.phase = .draining ↔ t.n.toNat * t.bpp < t.outIndex.toNat))) ∧
    (t.phase = .priming → t.inStart = true) ∧
    (t.inStart = true → t.hwRun = false) ∧
    (t.inStart = true ∨ t.hwRun = false → t.pend = none ∧ t.dueEvent = none) ∧
    (∀ u, step t = .next u → t.PhaseStep u)
end

