-- ==== Sys2Proof/Laws/Memory.lean ====
section
/-! SUPPORT. The laws of the memories: read after write, and that every write keeps the canonical form. -/

namespace Sys2Proof.Machine

variable {w : Nat}

@[simp] theorem Memory.get?_nil (a : Nat) : Memory.get? ([] : Memory w) a = none := rfl

theorem Memory.get?_cons (k : Nat) (v : BitVec w) (m : Memory w) (a : Nat) :
    Memory.get? ((k, v) :: m) a = if a = k then some v else Memory.get? m a := rfl

/-- A read after one write: the value written there, everything else as before. -/
theorem Memory.get?_set (m : Memory w) (a : Nat) (v : BitVec w) (a' : Nat) :
    Memory.get? (Memory.set m a v) a' = if a' = a then some v else Memory.get? m a' := by
  induction m with
  | nil => rfl
  | cons p m ih =>
    obtain ⟨k, x⟩ := p
    by_cases hlt : a < k
    · simp [Memory.set, hlt, Memory.get?_cons]
    · by_cases heq : a = k
      · subst heq
        simp only [Memory.set, Nat.lt_irrefl, if_false, if_true, Memory.get?_cons]
        split <;> rfl
      · simp only [Memory.set, hlt, heq, if_false, Memory.get?_cons, ih]
        by_cases ha : a' = a
        · subst ha; simp [heq]
        · simp [ha]

@[simp] theorem Memory.get?_set_same (m : Memory w) (a : Nat) (v : BitVec w) :
    Memory.get? (Memory.set m a v) a = some v := by simp [Memory.get?_set]

theorem Memory.get?_set_other (m : Memory w) {a a' : Nat} (v : BitVec w) (h : a' ≠ a) :
    Memory.get? (Memory.set m a v) a' = Memory.get? m a' := by simp [Memory.get?_set, h]

/-- A read after a run of writes from `a`: the unit written there, everything else as before. -/
theorem Memory.get?_writeRun (vs : List (BitVec w)) (m : Memory w) (a a' : Nat) :
    Memory.get? (Memory.writeRun m a vs) a' =
      if a ≤ a' ∧ a' < a + vs.length then vs[a' - a]? else Memory.get? m a' := by
  induction vs generalizing m a with
  | nil => simp [Memory.writeRun]
  | cons v vs ih =>
    rw [Memory.writeRun, ih, Memory.get?_set]
    rcases Nat.lt_trichotomy a' a with h | h | h
    · simp [Nat.not_le_of_lt h, Nat.not_le_of_lt (Nat.lt_succ_of_lt h), Nat.ne_of_lt h]
    · subst h; simp
    · have h1 : a' ≠ a := Nat.ne_of_gt h
      have h2 : a' - a = (a' - (a + 1)) + 1 := by omega
      have h3 : (a + 1 ≤ a' ∧ a' < a + 1 + vs.length) ↔ (a ≤ a' ∧ a' < a + (v :: vs).length) := by
        simp only [List.length_cons]; omega
      simp only [h3, h1, if_false, h2, List.getElem?_cons_succ]

theorem Memory.mem_set {m : Memory w} {a : Nat} {v : BitVec w} {p : Nat × BitVec w}
    (h : p ∈ Memory.set m a v) : p = (a, v) ∨ p ∈ m := by
  induction m with
  | nil => simpa [Memory.set] using h
  | cons q m ih =>
    obtain ⟨k, x⟩ := q
    simp only [Memory.set] at h
    split at h
    · simpa using h
    · split at h
      · rcases List.mem_cons.mp h with h | h
        · exact .inl h
        · exact .inr (List.mem_cons_of_mem _ h)
      · rcases List.mem_cons.mp h with h | h
        · exact .inr (h ▸ List.mem_cons_self)
        · exact (ih h).imp id (List.mem_cons_of_mem _)

/-- One write keeps the canonical form. -/
theorem Memory.wf_set {m : Memory w} (h : Memory.wf m) (a : Nat) (v : BitVec w) : Memory.wf (Memory.set m a v) := by
  induction m with
  | nil => simp [Memory.set]
  | cons p m ih =>
    obtain ⟨k, x⟩ := p
    have ⟨hk, hm⟩ := List.pairwise_cons.mp h
    simp only [Memory.set]
    split
    · next hlt =>
      refine List.pairwise_cons.mpr ⟨fun q hq => ?_, h⟩
      rcases List.mem_cons.mp hq with hq | hq
      · subst hq; exact hlt
      · exact Nat.lt_trans hlt (hk q hq)
    · next hlt =>
      split
      · next heq => subst heq; exact List.pairwise_cons.mpr ⟨hk, hm⟩
      · next heq =>
        refine List.pairwise_cons.mpr ⟨fun q hq => ?_, ih hm⟩
        rcases Memory.mem_set hq with hq | hq
        · subst hq; show k < a; omega
        · exact hk q hq

/-- A run of writes keeps the canonical form. -/
theorem Memory.wf_writeRun {m : Memory w} (h : Memory.wf m) (a : Nat) (vs : List (BitVec w)) :
    Memory.wf (Memory.writeRun m a vs) := by
  induction vs generalizing m a with
  | nil => exact h
  | cons v vs ih => exact ih (Memory.wf_set h a v) _

/-- One write below the limit keeps the memory below it. -/
theorem Memory.below_set {m : Memory w} {limit : Nat} (h : Memory.below m limit) {a : Nat} (ha : a < limit)
    (v : BitVec w) : Memory.below (Memory.set m a v) limit := by
  intro p hp
  rcases Memory.mem_set hp with hp | hp
  · subst hp; exact ha
  · exact h p hp

/-- A run of writes below the limit keeps the memory below it. -/
theorem Memory.below_writeRun {m : Memory w} {limit : Nat} (h : Memory.below m limit) {a : Nat}
    {vs : List (BitVec w)} (ha : a + vs.length ≤ limit) : Memory.below (Memory.writeRun m a vs) limit := by
  induction vs generalizing m a with
  | nil => exact h
  | cons v vs ih =>
    simp only [List.length_cons] at ha
    exact ih (Memory.below_set h (by omega) v) (by omega)

end Sys2Proof.Machine
end

