-- ==== Sys2Proof/Laws/State.lean ====
section
/-! SUPPORT. For each named update of State, what each field and each size is after it. All true by rfl. -/

namespace Sys2Proof.Machine

variable (s : State)

/-! ### retire -/

@[simp] theorem State.retire_n : s.retire.n = s.n := rfl
@[simp] theorem State.retire_layout : s.retire.layout = s.layout := rfl
@[simp] theorem State.retire_zeroDuty : s.retire.zeroDuty = s.zeroDuty := rfl
@[simp] theorem State.retire_oneDuty : s.retire.oneDuty = s.oneDuty := rfl
@[simp] theorem State.retire_brightness : s.retire.brightness = s.brightness := rfl
@[simp] theorem State.retire_fb : s.retire.fb = s.fb := rfl
@[simp] theorem State.retire_dma : s.retire.dma = s.dma := rfl
@[simp] theorem State.retire_outIndex : s.retire.outIndex = s.outIndex := rfl
@[simp] theorem State.retire_ready : s.retire.ready = s.ready := rfl
@[simp] theorem State.retire_phase : s.retire.phase = s.phase := rfl
@[simp] theorem State.retire_irqEn : s.retire.irqEn = s.irqEn := rfl
@[simp] theorem State.retire_hwRun : s.retire.hwRun = s.hwRun := rfl
@[simp] theorem State.retire_rp : s.retire.rp = s.rp := rfl
@[simp] theorem State.retire_pend : s.retire.pend = s.pend := rfl
@[simp] theorem State.retire_wire : s.retire.wire = s.wire := rfl
@[simp] theorem State.retire_powerUp : s.retire.powerUp = s.powerUp := rfl
@[simp] theorem State.retire_returned : s.retire.returned = s.returned := rfl
@[simp] theorem State.retire_outputs : s.retire.outputs = s.outputs := rfl
@[simp] theorem State.retire_prog : s.retire.prog = s.prog.tail := rfl
@[simp] theorem State.retire_turns : s.retire.turns = s.turns := rfl
@[simp] theorem State.retire_todo : s.retire.todo = s.todo := rfl
@[simp] theorem State.retire_loaded : s.retire.loaded = s.loaded := rfl
@[simp] theorem State.retire_bpp : s.retire.bpp = s.bpp := rfl
@[simp] theorem State.retire_fbSize : s.retire.fbSize = s.fbSize := rfl
@[simp] theorem State.retire_halfLen : s.retire.halfLen = s.halfLen := rfl
@[simp] theorem State.retire_bufLen : s.retire.bufLen = s.bufLen := rfl

/-! ### giveResult -/

@[simp] theorem State.giveResult_n (v : ColorWord) : (s.giveResult v).n = s.n := rfl
@[simp] theorem State.giveResult_layout (v : ColorWord) : (s.giveResult v).layout = s.layout := rfl
@[simp] theorem State.giveResult_zeroDuty (v : ColorWord) : (s.giveResult v).zeroDuty = s.zeroDuty := rfl
@[simp] theorem State.giveResult_oneDuty (v : ColorWord) : (s.giveResult v).oneDuty = s.oneDuty := rfl
@[simp] theorem State.giveResult_brightness (v : ColorWord) : (s.giveResult v).brightness = s.brightness := rfl
@[simp] theorem State.giveResult_fb (v : ColorWord) : (s.giveResult v).fb = s.fb := rfl
@[simp] theorem State.giveResult_dma (v : ColorWord) : (s.giveResult v).dma = s.dma := rfl
@[simp] theorem State.giveResult_outIndex (v : ColorWord) : (s.giveResult v).outIndex = s.outIndex := rfl
@[simp] theorem State.giveResult_ready (v : ColorWord) : (s.giveResult v).ready = s.ready := rfl
@[simp] theorem State.giveResult_phase (v : ColorWord) : (s.giveResult v).phase = s.phase := rfl
@[simp] theorem State.giveResult_irqEn (v : ColorWord) : (s.giveResult v).irqEn = s.irqEn := rfl
@[simp] theorem State.giveResult_hwRun (v : ColorWord) : (s.giveResult v).hwRun = s.hwRun := rfl
@[simp] theorem State.giveResult_rp (v : ColorWord) : (s.giveResult v).rp = s.rp := rfl
@[simp] theorem State.giveResult_pend (v : ColorWord) : (s.giveResult v).pend = s.pend := rfl
@[simp] theorem State.giveResult_wire (v : ColorWord) : (s.giveResult v).wire = s.wire := rfl
@[simp] theorem State.giveResult_powerUp (v : ColorWord) : (s.giveResult v).powerUp = s.powerUp := rfl
@[simp] theorem State.giveResult_returned (v : ColorWord) : (s.giveResult v).returned = s.returned ++ [v] := rfl
@[simp] theorem State.giveResult_outputs (v : ColorWord) : (s.giveResult v).outputs = s.outputs := rfl
@[simp] theorem State.giveResult_prog (v : ColorWord) : (s.giveResult v).prog = s.prog := rfl
@[simp] theorem State.giveResult_turns (v : ColorWord) : (s.giveResult v).turns = s.turns := rfl
@[simp] theorem State.giveResult_todo (v : ColorWord) : (s.giveResult v).todo = s.todo := rfl
@[simp] theorem State.giveResult_loaded (v : ColorWord) : (s.giveResult v).loaded = s.loaded := rfl
@[simp] theorem State.giveResult_bpp (v : ColorWord) : (s.giveResult v).bpp = s.bpp := rfl
@[simp] theorem State.giveResult_fbSize (v : ColorWord) : (s.giveResult v).fbSize = s.fbSize := rfl
@[simp] theorem State.giveResult_halfLen (v : ColorWord) : (s.giveResult v).halfLen = s.halfLen := rfl
@[simp] theorem State.giveResult_bufLen (v : ColorWord) : (s.giveResult v).bufLen = s.bufLen := rfl

/-! ### fbWrite -/

@[simp] theorem State.fbWrite_n (a : Nat) (v : Byte) : (s.fbWrite a v).n = s.n := rfl
@[simp] theorem State.fbWrite_layout (a : Nat) (v : Byte) : (s.fbWrite a v).layout = s.layout := rfl
@[simp] theorem State.fbWrite_zeroDuty (a : Nat) (v : Byte) : (s.fbWrite a v).zeroDuty = s.zeroDuty := rfl
@[simp] theorem State.fbWrite_oneDuty (a : Nat) (v : Byte) : (s.fbWrite a v).oneDuty = s.oneDuty := rfl
@[simp] theorem State.fbWrite_brightness (a : Nat) (v : Byte) : (s.fbWrite a v).brightness = s.brightness := rfl
@[simp] theorem State.fbWrite_fb (a : Nat) (v : Byte) : (s.fbWrite a v).fb = Memory.set s.fb a v := rfl
@[simp] theorem State.fbWrite_dma (a : Nat) (v : Byte) : (s.fbWrite a v).dma = s.dma := rfl
@[simp] theorem State.fbWrite_outIndex (a : Nat) (v : Byte) : (s.fbWrite a v).outIndex = s.outIndex := rfl
@[simp] theorem State.fbWrite_ready (a : Nat) (v : Byte) : (s.fbWrite a v).ready = s.ready := rfl
@[simp] theorem State.fbWrite_phase (a : Nat) (v : Byte) : (s.fbWrite a v).phase = s.phase := rfl
@[simp] theorem State.fbWrite_irqEn (a : Nat) (v : Byte) : (s.fbWrite a v).irqEn = s.irqEn := rfl
@[simp] theorem State.fbWrite_hwRun (a : Nat) (v : Byte) : (s.fbWrite a v).hwRun = s.hwRun := rfl
@[simp] theorem State.fbWrite_rp (a : Nat) (v : Byte) : (s.fbWrite a v).rp = s.rp := rfl
@[simp] theorem State.fbWrite_pend (a : Nat) (v : Byte) : (s.fbWrite a v).pend = s.pend := rfl
@[simp] theorem State.fbWrite_wire (a : Nat) (v : Byte) : (s.fbWrite a v).wire = s.wire := rfl
@[simp] theorem State.fbWrite_powerUp (a : Nat) (v : Byte) : (s.fbWrite a v).powerUp = s.powerUp := rfl
@[simp] theorem State.fbWrite_returned (a : Nat) (v : Byte) : (s.fbWrite a v).returned = s.returned := rfl
@[simp] theorem State.fbWrite_outputs (a : Nat) (v : Byte) : (s.fbWrite a v).outputs = s.outputs := rfl
@[simp] theorem State.fbWrite_prog (a : Nat) (v : Byte) : (s.fbWrite a v).prog = s.prog := rfl
@[simp] theorem State.fbWrite_turns (a : Nat) (v : Byte) : (s.fbWrite a v).turns = s.turns := rfl
@[simp] theorem State.fbWrite_todo (a : Nat) (v : Byte) : (s.fbWrite a v).todo = s.todo := rfl
@[simp] theorem State.fbWrite_loaded (a : Nat) (v : Byte) : (s.fbWrite a v).loaded = s.loaded := rfl
@[simp] theorem State.fbWrite_bpp (a : Nat) (v : Byte) : (s.fbWrite a v).bpp = s.bpp := rfl
@[simp] theorem State.fbWrite_fbSize (a : Nat) (v : Byte) : (s.fbWrite a v).fbSize = s.fbSize := rfl
@[simp] theorem State.fbWrite_halfLen (a : Nat) (v : Byte) : (s.fbWrite a v).halfLen = s.halfLen := rfl
@[simp] theorem State.fbWrite_bufLen (a : Nat) (v : Byte) : (s.fbWrite a v).bufLen = s.bufLen := rfl

/-! ### dmaWrite -/

@[simp] theorem State.dmaWrite_n (e : Nat) (d : Duty) : (s.dmaWrite e d).n = s.n := rfl
@[simp] theorem State.dmaWrite_layout (e : Nat) (d : Duty) : (s.dmaWrite e d).layout = s.layout := rfl
@[simp] theorem State.dmaWrite_zeroDuty (e : Nat) (d : Duty) : (s.dmaWrite e d).zeroDuty = s.zeroDuty := rfl
@[simp] theorem State.dmaWrite_oneDuty (e : Nat) (d : Duty) : (s.dmaWrite e d).oneDuty = s.oneDuty := rfl
@[simp] theorem State.dmaWrite_brightness (e : Nat) (d : Duty) : (s.dmaWrite e d).brightness = s.brightness := rfl
@[simp] theorem State.dmaWrite_fb (e : Nat) (d : Duty) : (s.dmaWrite e d).fb = s.fb := rfl
@[simp] theorem State.dmaWrite_dma (e : Nat) (d : Duty) : (s.dmaWrite e d).dma = Memory.set s.dma e d := rfl
@[simp] theorem State.dmaWrite_outIndex (e : Nat) (d : Duty) : (s.dmaWrite e d).outIndex = s.outIndex := rfl
@[simp] theorem State.dmaWrite_ready (e : Nat) (d : Duty) : (s.dmaWrite e d).ready = s.ready := rfl
@[simp] theorem State.dmaWrite_phase (e : Nat) (d : Duty) : (s.dmaWrite e d).phase = s.phase := rfl
@[simp] theorem State.dmaWrite_irqEn (e : Nat) (d : Duty) : (s.dmaWrite e d).irqEn = s.irqEn := rfl
@[simp] theorem State.dmaWrite_hwRun (e : Nat) (d : Duty) : (s.dmaWrite e d).hwRun = s.hwRun := rfl
@[simp] theorem State.dmaWrite_rp (e : Nat) (d : Duty) : (s.dmaWrite e d).rp = s.rp := rfl
@[simp] theorem State.dmaWrite_pend (e : Nat) (d : Duty) : (s.dmaWrite e d).pend = s.pend := rfl
@[simp] theorem State.dmaWrite_wire (e : Nat) (d : Duty) : (s.dmaWrite e d).wire = s.wire := rfl
@[simp] theorem State.dmaWrite_powerUp (e : Nat) (d : Duty) : (s.dmaWrite e d).powerUp = s.powerUp := rfl
@[simp] theorem State.dmaWrite_returned (e : Nat) (d : Duty) : (s.dmaWrite e d).returned = s.returned := rfl
@[simp] theorem State.dmaWrite_outputs (e : Nat) (d : Duty) : (s.dmaWrite e d).outputs = s.outputs := rfl
@[simp] theorem State.dmaWrite_prog (e : Nat) (d : Duty) : (s.dmaWrite e d).prog = s.prog := rfl
@[simp] theorem State.dmaWrite_turns (e : Nat) (d : Duty) : (s.dmaWrite e d).turns = s.turns := rfl
@[simp] theorem State.dmaWrite_todo (e : Nat) (d : Duty) : (s.dmaWrite e d).todo = s.todo := rfl
@[simp] theorem State.dmaWrite_loaded (e : Nat) (d : Duty) : (s.dmaWrite e d).loaded = s.loaded := rfl
@[simp] theorem State.dmaWrite_bpp (e : Nat) (d : Duty) : (s.dmaWrite e d).bpp = s.bpp := rfl
@[simp] theorem State.dmaWrite_fbSize (e : Nat) (d : Duty) : (s.dmaWrite e d).fbSize = s.fbSize := rfl
@[simp] theorem State.dmaWrite_halfLen (e : Nat) (d : Duty) : (s.dmaWrite e d).halfLen = s.halfLen := rfl
@[simp] theorem State.dmaWrite_bufLen (e : Nat) (d : Duty) : (s.dmaWrite e d).bufLen = s.bufLen := rfl

/-! ### fbWriteAll -/

@[simp] theorem State.fbWriteAll_n (vs : List Byte) : (s.fbWriteAll vs).n = s.n := rfl
@[simp] theorem State.fbWriteAll_layout (vs : List Byte) : (s.fbWriteAll vs).layout = s.layout := rfl
@[simp] theorem State.fbWriteAll_zeroDuty (vs : List Byte) : (s.fbWriteAll vs).zeroDuty = s.zeroDuty := rfl
@[simp] theorem State.fbWriteAll_oneDuty (vs : List Byte) : (s.fbWriteAll vs).oneDuty = s.oneDuty := rfl
@[simp] theorem State.fbWriteAll_brightness (vs : List Byte) : (s.fbWriteAll vs).brightness = s.brightness := rfl
@[simp] theorem State.fbWriteAll_fb (vs : List Byte) : (s.fbWriteAll vs).fb = Memory.writeRun s.fb 0 vs := rfl
@[simp] theorem State.fbWriteAll_dma (vs : List Byte) : (s.fbWriteAll vs).dma = s.dma := rfl
@[simp] theorem State.fbWriteAll_outIndex (vs : List Byte) : (s.fbWriteAll vs).outIndex = s.outIndex := rfl
@[simp] theorem State.fbWriteAll_ready (vs : List Byte) : (s.fbWriteAll vs).ready = s.ready := rfl
@[simp] theorem State.fbWriteAll_phase (vs : List Byte) : (s.fbWriteAll vs).phase = s.phase := rfl
@[simp] theorem State.fbWriteAll_irqEn (vs : List Byte) : (s.fbWriteAll vs).irqEn = s.irqEn := rfl
@[simp] theorem State.fbWriteAll_hwRun (vs : List Byte) : (s.fbWriteAll vs).hwRun = s.hwRun := rfl
@[simp] theorem State.fbWriteAll_rp (vs : List Byte) : (s.fbWriteAll vs).rp = s.rp := rfl
@[simp] theorem State.fbWriteAll_pend (vs : List Byte) : (s.fbWriteAll vs).pend = s.pend := rfl
@[simp] theorem State.fbWriteAll_wire (vs : List Byte) : (s.fbWriteAll vs).wire = s.wire := rfl
@[simp] theorem State.fbWriteAll_powerUp (vs : List Byte) : (s.fbWriteAll vs).powerUp = s.powerUp := rfl
@[simp] theorem State.fbWriteAll_returned (vs : List Byte) : (s.fbWriteAll vs).returned = s.returned := rfl
@[simp] theorem State.fbWriteAll_outputs (vs : List Byte) : (s.fbWriteAll vs).outputs = s.outputs := rfl
@[simp] theorem State.fbWriteAll_prog (vs : List Byte) : (s.fbWriteAll vs).prog = s.prog := rfl
@[simp] theorem State.fbWriteAll_turns (vs : List Byte) : (s.fbWriteAll vs).turns = s.turns := rfl
@[simp] theorem State.fbWriteAll_todo (vs : List Byte) : (s.fbWriteAll vs).todo = s.todo := rfl
@[simp] theorem State.fbWriteAll_loaded (vs : List Byte) : (s.fbWriteAll vs).loaded = s.loaded := rfl
@[simp] theorem State.fbWriteAll_bpp (vs : List Byte) : (s.fbWriteAll vs).bpp = s.bpp := rfl
@[simp] theorem State.fbWriteAll_fbSize (vs : List Byte) : (s.fbWriteAll vs).fbSize = s.fbSize := rfl
@[simp] theorem State.fbWriteAll_halfLen (vs : List Byte) : (s.fbWriteAll vs).halfLen = s.halfLen := rfl
@[simp] theorem State.fbWriteAll_bufLen (vs : List Byte) : (s.fbWriteAll vs).bufLen = s.bufLen := rfl

/-! ### fillHalf -/

@[simp] theorem State.fillHalf_n (h : Half) (ds : List Duty) : (s.fillHalf h ds).n = s.n := rfl
@[simp] theorem State.fillHalf_layout (h : Half) (ds : List Duty) : (s.fillHalf h ds).layout = s.layout := rfl
@[simp] theorem State.fillHalf_zeroDuty (h : Half) (ds : List Duty) : (s.fillHalf h ds).zeroDuty = s.zeroDuty := rfl
@[simp] theorem State.fillHalf_oneDuty (h : Half) (ds : List Duty) : (s.fillHalf h ds).oneDuty = s.oneDuty := rfl
@[simp] theorem State.fillHalf_brightness (h : Half) (ds : List Duty) : (s.fillHalf h ds).brightness = s.brightness := rfl
@[simp] theorem State.fillHalf_fb (h : Half) (ds : List Duty) : (s.fillHalf h ds).fb = s.fb := rfl
@[simp] theorem State.fillHalf_dma (h : Half) (ds : List Duty) : (s.fillHalf h ds).dma = Memory.writeRun s.dma (s.halfBase h) ds := rfl
@[simp] theorem State.fillHalf_outIndex (h : Half) (ds : List Duty) : (s.fillHalf h ds).outIndex = s.outIndex := rfl
@[simp] theorem State.fillHalf_ready (h : Half) (ds : List Duty) : (s.fillHalf h ds).ready = s.ready := rfl
@[simp] theorem State.fillHalf_phase (h : Half) (ds : List Duty) : (s.fillHalf h ds).phase = s.phase := rfl
@[simp] theorem State.fillHalf_irqEn (h : Half) (ds : List Duty) : (s.fillHalf h ds).irqEn = s.irqEn := rfl
@[simp] theorem State.fillHalf_hwRun (h : Half) (ds : List Duty) : (s.fillHalf h ds).hwRun = s.hwRun := rfl
@[simp] theorem State.fillHalf_rp (h : Half) (ds : List Duty) : (s.fillHalf h ds).rp = s.rp := rfl
@[simp] theorem State.fillHalf_pend (h : Half) (ds : List Duty) : (s.fillHalf h ds).pend = s.pend := rfl
@[simp] theorem State.fillHalf_wire (h : Half) (ds : List Duty) : (s.fillHalf h ds).wire = s.wire := rfl
@[simp] theorem State.fillHalf_powerUp (h : Half) (ds : List Duty) : (s.fillHalf h ds).powerUp = s.powerUp := rfl
@[simp] theorem State.fillHalf_returned (h : Half) (ds : List Duty) : (s.fillHalf h ds).returned = s.returned := rfl
@[simp] theorem State.fillHalf_outputs (h : Half) (ds : List Duty) : (s.fillHalf h ds).outputs = s.outputs := rfl
@[simp] theorem State.fillHalf_prog (h : Half) (ds : List Duty) : (s.fillHalf h ds).prog = s.prog := rfl
@[simp] theorem State.fillHalf_turns (h : Half) (ds : List Duty) : (s.fillHalf h ds).turns = s.turns := rfl
@[simp] theorem State.fillHalf_todo (h : Half) (ds : List Duty) : (s.fillHalf h ds).todo = s.todo := rfl
@[simp] theorem State.fillHalf_loaded (h : Half) (ds : List Duty) : (s.fillHalf h ds).loaded = s.loaded := rfl
@[simp] theorem State.fillHalf_bpp (h : Half) (ds : List Duty) : (s.fillHalf h ds).bpp = s.bpp := rfl
@[simp] theorem State.fillHalf_fbSize (h : Half) (ds : List Duty) : (s.fillHalf h ds).fbSize = s.fbSize := rfl
@[simp] theorem State.fillHalf_halfLen (h : Half) (ds : List Duty) : (s.fillHalf h ds).halfLen = s.halfLen := rfl
@[simp] theorem State.fillHalf_bufLen (h : Half) (ds : List Duty) : (s.fillHalf h ds).bufLen = s.bufLen := rfl

/-! ### zeroHalf -/

@[simp] theorem State.zeroHalf_n (h : Half) : (s.zeroHalf h).n = s.n := rfl
@[simp] theorem State.zeroHalf_layout (h : Half) : (s.zeroHalf h).layout = s.layout := rfl
@[simp] theorem State.zeroHalf_zeroDuty (h : Half) : (s.zeroHalf h).zeroDuty = s.zeroDuty := rfl
@[simp] theorem State.zeroHalf_oneDuty (h : Half) : (s.zeroHalf h).oneDuty = s.oneDuty := rfl
@[simp] theorem State.zeroHalf_brightness (h : Half) : (s.zeroHalf h).brightness = s.brightness := rfl
@[simp] theorem State.zeroHalf_fb (h : Half) : (s.zeroHalf h).fb = s.fb := rfl
@[simp] theorem State.zeroHalf_dma (h : Half) : (s.zeroHalf h).dma = Memory.writeRun s.dma (s.halfBase h) (List.replicate s.halfLen 0) := rfl
@[simp] theorem State.zeroHalf_outIndex (h : Half) : (s.zeroHalf h).outIndex = s.outIndex := rfl
@[simp] theorem State.zeroHalf_ready (h : Half) : (s.zeroHalf h).ready = s.ready := rfl
@[simp] theorem State.zeroHalf_phase (h : Half) : (s.zeroHalf h).phase = s.phase := rfl
@[simp] theorem State.zeroHalf_irqEn (h : Half) : (s.zeroHalf h).irqEn = s.irqEn := rfl
@[simp] theorem State.zeroHalf_hwRun (h : Half) : (s.zeroHalf h).hwRun = s.hwRun := rfl
@[simp] theorem State.zeroHalf_rp (h : Half) : (s.zeroHalf h).rp = s.rp := rfl
@[simp] theorem State.zeroHalf_pend (h : Half) : (s.zeroHalf h).pend = s.pend := rfl
@[simp] theorem State.zeroHalf_wire (h : Half) : (s.zeroHalf h).wire = s.wire := rfl
@[simp] theorem State.zeroHalf_powerUp (h : Half) : (s.zeroHalf h).powerUp = s.powerUp := rfl
@[simp] theorem State.zeroHalf_returned (h : Half) : (s.zeroHalf h).returned = s.returned := rfl
@[simp] theorem State.zeroHalf_outputs (h : Half) : (s.zeroHalf h).outputs = s.outputs := rfl
@[simp] theorem State.zeroHalf_prog (h : Half) : (s.zeroHalf h).prog = s.prog := rfl
@[simp] theorem State.zeroHalf_turns (h : Half) : (s.zeroHalf h).turns = s.turns := rfl
@[simp] theorem State.zeroHalf_todo (h : Half) : (s.zeroHalf h).todo = s.todo := rfl
@[simp] theorem State.zeroHalf_loaded (h : Half) : (s.zeroHalf h).loaded = s.loaded := rfl
@[simp] theorem State.zeroHalf_bpp (h : Half) : (s.zeroHalf h).bpp = s.bpp := rfl
@[simp] theorem State.zeroHalf_fbSize (h : Half) : (s.zeroHalf h).fbSize = s.fbSize := rfl
@[simp] theorem State.zeroHalf_halfLen (h : Half) : (s.zeroHalf h).halfLen = s.halfLen := rfl
@[simp] theorem State.zeroHalf_bufLen (h : Half) : (s.zeroHalf h).bufLen = s.bufLen := rfl

/-! ### startPwmDma -/

@[simp] theorem State.startPwmDma_n : s.startPwmDma.n = s.n := rfl
@[simp] theorem State.startPwmDma_layout : s.startPwmDma.layout = s.layout := rfl
@[simp] theorem State.startPwmDma_zeroDuty : s.startPwmDma.zeroDuty = s.zeroDuty := rfl
@[simp] theorem State.startPwmDma_oneDuty : s.startPwmDma.oneDuty = s.oneDuty := rfl
@[simp] theorem State.startPwmDma_brightness : s.startPwmDma.brightness = s.brightness := rfl
@[simp] theorem State.startPwmDma_fb : s.startPwmDma.fb = s.fb := rfl
@[simp] theorem State.startPwmDma_dma : s.startPwmDma.dma = s.dma := rfl
@[simp] theorem State.startPwmDma_outIndex : s.startPwmDma.outIndex = s.outIndex := rfl
@[simp] theorem State.startPwmDma_ready : s.startPwmDma.ready = s.ready := rfl
@[simp] theorem State.startPwmDma_phase : s.startPwmDma.phase = s.phase := rfl
@[simp] theorem State.startPwmDma_irqEn : s.startPwmDma.irqEn = s.irqEn := rfl
@[simp] theorem State.startPwmDma_hwRun : s.startPwmDma.hwRun = true := rfl
@[simp] theorem State.startPwmDma_rp : s.startPwmDma.rp = 0 := rfl
@[simp] theorem State.startPwmDma_pend : s.startPwmDma.pend = none := rfl
@[simp] theorem State.startPwmDma_wire : s.startPwmDma.wire = s.wire := rfl
@[simp] theorem State.startPwmDma_powerUp : s.startPwmDma.powerUp = s.powerUp := rfl
@[simp] theorem State.startPwmDma_returned : s.startPwmDma.returned = s.returned := rfl
@[simp] theorem State.startPwmDma_outputs : s.startPwmDma.outputs = s.outputs ++ [.startPwmDma s.bufLen] := rfl
@[simp] theorem State.startPwmDma_prog : s.startPwmDma.prog = s.prog := rfl
@[simp] theorem State.startPwmDma_turns : s.startPwmDma.turns = s.turns := rfl
@[simp] theorem State.startPwmDma_todo : s.startPwmDma.todo = s.todo := rfl
@[simp] theorem State.startPwmDma_loaded : s.startPwmDma.loaded = s.loaded := rfl
@[simp] theorem State.startPwmDma_bpp : s.startPwmDma.bpp = s.bpp := rfl
@[simp] theorem State.startPwmDma_fbSize : s.startPwmDma.fbSize = s.fbSize := rfl
@[simp] theorem State.startPwmDma_halfLen : s.startPwmDma.halfLen = s.halfLen := rfl
@[simp] theorem State.startPwmDma_bufLen : s.startPwmDma.bufLen = s.bufLen := rfl

/-! ### stopPwmDma -/

@[simp] theorem State.stopPwmDma_n : s.stopPwmDma.n = s.n := rfl
@[simp] theorem State.stopPwmDma_layout : s.stopPwmDma.layout = s.layout := rfl
@[simp] theorem State.stopPwmDma_zeroDuty : s.stopPwmDma.zeroDuty = s.zeroDuty := rfl
@[simp] theorem State.stopPwmDma_oneDuty : s.stopPwmDma.oneDuty = s.oneDuty := rfl
@[simp] theorem State.stopPwmDma_brightness : s.stopPwmDma.brightness = s.brightness := rfl
@[simp] theorem State.stopPwmDma_fb : s.stopPwmDma.fb = s.fb := rfl
@[simp] theorem State.stopPwmDma_dma : s.stopPwmDma.dma = s.dma := rfl
@[simp] theorem State.stopPwmDma_outIndex : s.stopPwmDma.outIndex = s.outIndex := rfl
@[simp] theorem State.stopPwmDma_ready : s.stopPwmDma.ready = s.ready := rfl
@[simp] theorem State.stopPwmDma_phase : s.stopPwmDma.phase = s.phase := rfl
@[simp] theorem State.stopPwmDma_irqEn : s.stopPwmDma.irqEn = s.irqEn := rfl
@[simp] theorem State.stopPwmDma_hwRun : s.stopPwmDma.hwRun = false := rfl
@[simp] theorem State.stopPwmDma_rp : s.stopPwmDma.rp = s.rp := rfl
@[simp] theorem State.stopPwmDma_pend : s.stopPwmDma.pend = none := rfl
@[simp] theorem State.stopPwmDma_wire : s.stopPwmDma.wire = s.wire := rfl
@[simp] theorem State.stopPwmDma_powerUp : s.stopPwmDma.powerUp = s.powerUp := rfl
@[simp] theorem State.stopPwmDma_returned : s.stopPwmDma.returned = s.returned := rfl
@[simp] theorem State.stopPwmDma_outputs : s.stopPwmDma.outputs = s.outputs ++ [.stopPwmDma] := rfl
@[simp] theorem State.stopPwmDma_prog : s.stopPwmDma.prog = s.prog := rfl
@[simp] theorem State.stopPwmDma_turns : s.stopPwmDma.turns = s.turns := rfl
@[simp] theorem State.stopPwmDma_todo : s.stopPwmDma.todo = s.todo := rfl
@[simp] theorem State.stopPwmDma_loaded : s.stopPwmDma.loaded = s.loaded := rfl
@[simp] theorem State.stopPwmDma_bpp : s.stopPwmDma.bpp = s.bpp := rfl
@[simp] theorem State.stopPwmDma_fbSize : s.stopPwmDma.fbSize = s.fbSize := rfl
@[simp] theorem State.stopPwmDma_halfLen : s.stopPwmDma.halfLen = s.halfLen := rfl
@[simp] theorem State.stopPwmDma_bufLen : s.stopPwmDma.bufLen = s.bufLen := rfl

/-! ### returnFromEvent -/

@[simp] theorem State.returnFromEvent_n : s.returnFromEvent.n = s.n := rfl
@[simp] theorem State.returnFromEvent_layout : s.returnFromEvent.layout = s.layout := rfl
@[simp] theorem State.returnFromEvent_zeroDuty : s.returnFromEvent.zeroDuty = s.zeroDuty := rfl
@[simp] theorem State.returnFromEvent_oneDuty : s.returnFromEvent.oneDuty = s.oneDuty := rfl
@[simp] theorem State.returnFromEvent_brightness : s.returnFromEvent.brightness = s.brightness := rfl
@[simp] theorem State.returnFromEvent_fb : s.returnFromEvent.fb = s.fb := rfl
@[simp] theorem State.returnFromEvent_dma : s.returnFromEvent.dma = s.dma := rfl
@[simp] theorem State.returnFromEvent_outIndex : s.returnFromEvent.outIndex = s.outIndex := rfl
@[simp] theorem State.returnFromEvent_ready : s.returnFromEvent.ready = s.ready := rfl
@[simp] theorem State.returnFromEvent_phase : s.returnFromEvent.phase = s.phase := rfl
@[simp] theorem State.returnFromEvent_irqEn : s.returnFromEvent.irqEn = s.irqEn := rfl
@[simp] theorem State.returnFromEvent_hwRun : s.returnFromEvent.hwRun = s.hwRun := rfl
@[simp] theorem State.returnFromEvent_rp : s.returnFromEvent.rp = s.rp := rfl
@[simp] theorem State.returnFromEvent_pend : s.returnFromEvent.pend = none := rfl
@[simp] theorem State.returnFromEvent_wire : s.returnFromEvent.wire = s.wire := rfl
@[simp] theorem State.returnFromEvent_powerUp : s.returnFromEvent.powerUp = s.powerUp := rfl
@[simp] theorem State.returnFromEvent_returned : s.returnFromEvent.returned = s.returned := rfl
@[simp] theorem State.returnFromEvent_outputs : s.returnFromEvent.outputs = s.outputs := rfl
@[simp] theorem State.returnFromEvent_prog : s.returnFromEvent.prog = s.prog := rfl
@[simp] theorem State.returnFromEvent_turns : s.returnFromEvent.turns = s.turns := rfl
@[simp] theorem State.returnFromEvent_todo : s.returnFromEvent.todo = s.todo := rfl
@[simp] theorem State.returnFromEvent_loaded : s.returnFromEvent.loaded = s.loaded := rfl
@[simp] theorem State.returnFromEvent_bpp : s.returnFromEvent.bpp = s.bpp := rfl
@[simp] theorem State.returnFromEvent_fbSize : s.returnFromEvent.fbSize = s.fbSize := rfl
@[simp] theorem State.returnFromEvent_halfLen : s.returnFromEvent.halfLen = s.halfLen := rfl
@[simp] theorem State.returnFromEvent_bufLen : s.returnFromEvent.bufLen = s.bufLen := rfl

/-! ### completeTransfer -/

@[simp] theorem State.completeTransfer_n : s.completeTransfer.n = s.n := rfl
@[simp] theorem State.completeTransfer_layout : s.completeTransfer.layout = s.layout := rfl
@[simp] theorem State.completeTransfer_zeroDuty : s.completeTransfer.zeroDuty = s.zeroDuty := rfl
@[simp] theorem State.completeTransfer_oneDuty : s.completeTransfer.oneDuty = s.oneDuty := rfl
@[simp] theorem State.completeTransfer_brightness : s.completeTransfer.brightness = s.brightness := rfl
@[simp] theorem State.completeTransfer_fb : s.completeTransfer.fb = s.fb := rfl
@[simp] theorem State.completeTransfer_dma : s.completeTransfer.dma = s.dma := rfl
@[simp] theorem State.completeTransfer_outIndex : s.completeTransfer.outIndex = s.outIndex := rfl
@[simp] theorem State.completeTransfer_ready : s.completeTransfer.ready = true := rfl
@[simp] theorem State.completeTransfer_phase : s.completeTransfer.phase = .complete := rfl
@[simp] theorem State.completeTransfer_irqEn : s.completeTransfer.irqEn = false := rfl
@[simp] theorem State.completeTransfer_hwRun : s.completeTransfer.hwRun = false := rfl
@[simp] theorem State.completeTransfer_rp : s.completeTransfer.rp = s.rp := rfl
@[simp] theorem State.completeTransfer_pend : s.completeTransfer.pend = none := rfl
@[simp] theorem State.completeTransfer_wire : s.completeTransfer.wire = s.wire := rfl
@[simp] theorem State.completeTransfer_powerUp : s.completeTransfer.powerUp = s.powerUp := rfl
@[simp] theorem State.completeTransfer_returned : s.completeTransfer.returned = s.returned := rfl
@[simp] theorem State.completeTransfer_outputs : s.completeTransfer.outputs = s.outputs ++ [.stopPwmDma] := rfl
@[simp] theorem State.completeTransfer_prog : s.completeTransfer.prog = s.prog := rfl
@[simp] theorem State.completeTransfer_turns : s.completeTransfer.turns = s.turns := rfl
@[simp] theorem State.completeTransfer_todo : s.completeTransfer.todo = s.todo := rfl
@[simp] theorem State.completeTransfer_loaded : s.completeTransfer.loaded = s.loaded := rfl
@[simp] theorem State.completeTransfer_bpp : s.completeTransfer.bpp = s.bpp := rfl
@[simp] theorem State.completeTransfer_fbSize : s.completeTransfer.fbSize = s.fbSize := rfl
@[simp] theorem State.completeTransfer_halfLen : s.completeTransfer.halfLen = s.halfLen := rfl
@[simp] theorem State.completeTransfer_bufLen : s.completeTransfer.bufLen = s.bufLen := rfl

/-! ### endCommand -/

@[simp] theorem State.endCommand_n : s.endCommand.n = s.n := rfl
@[simp] theorem State.endCommand_layout : s.endCommand.layout = s.layout := rfl
@[simp] theorem State.endCommand_zeroDuty : s.endCommand.zeroDuty = s.zeroDuty := rfl
@[simp] theorem State.endCommand_oneDuty : s.endCommand.oneDuty = s.oneDuty := rfl
@[simp] theorem State.endCommand_brightness : s.endCommand.brightness = s.brightness := rfl
@[simp] theorem State.endCommand_fb : s.endCommand.fb = s.fb := rfl
@[simp] theorem State.endCommand_dma : s.endCommand.dma = s.dma := rfl
@[simp] theorem State.endCommand_outIndex : s.endCommand.outIndex = s.outIndex := rfl
@[simp] theorem State.endCommand_ready : s.endCommand.ready = s.ready := rfl
@[simp] theorem State.endCommand_phase : s.endCommand.phase = s.phase := rfl
@[simp] theorem State.endCommand_irqEn : s.endCommand.irqEn = s.irqEn := rfl
@[simp] theorem State.endCommand_hwRun : s.endCommand.hwRun = s.hwRun := rfl
@[simp] theorem State.endCommand_rp : s.endCommand.rp = s.rp := rfl
@[simp] theorem State.endCommand_pend : s.endCommand.pend = s.pend := rfl
@[simp] theorem State.endCommand_wire : s.endCommand.wire = s.wire := rfl
@[simp] theorem State.endCommand_powerUp : s.endCommand.powerUp = s.powerUp := rfl
@[simp] theorem State.endCommand_returned : s.endCommand.returned = s.returned := rfl
@[simp] theorem State.endCommand_outputs : s.endCommand.outputs = s.outputs := rfl
@[simp] theorem State.endCommand_prog : s.endCommand.prog = s.prog.tail := rfl
@[simp] theorem State.endCommand_turns : s.endCommand.turns = s.turns := rfl
@[simp] theorem State.endCommand_todo : s.endCommand.todo = [] := rfl
@[simp] theorem State.endCommand_loaded : s.endCommand.loaded = [] := rfl
@[simp] theorem State.endCommand_bpp : s.endCommand.bpp = s.bpp := rfl
@[simp] theorem State.endCommand_fbSize : s.endCommand.fbSize = s.fbSize := rfl
@[simp] theorem State.endCommand_halfLen : s.endCommand.halfLen = s.halfLen := rfl
@[simp] theorem State.endCommand_bufLen : s.endCommand.bufLen = s.bufLen := rfl

end Sys2Proof.Machine
end

