-- ==== Sys2Proof/Laws/Ops.lean ====
section
/-! SUPPORT. One lemma per shared operation: what it answers, and what a read of either memory gives after it. -/

namespace Sys2Proof.Machine

/-! ### Sizes -/

theorem bpp_three_or_four (s : State) : s.bpp = 3 ∨ s.bpp = 4 := by
  unfold State.bpp; cases s.layout <;> simp [layoutRow]

theorem bpp_pos (s : State) : 0 < s.bpp := by rcases bpp_three_or_four s with h | h <;> omega

theorem chanOff_lt (l : Layout) (c : Channel) (o : Nat) (h : chanOff l c = some o) : o < (layoutRow l).bpp := by
  cases l <;> cases c <;> simp_all [chanOff, layoutRow] <;> omega

theorem encodeByte_length (s : State) (x : Byte) : (s.encodeByte x).length = 8 := by simp [State.encodeByte]

theorem encodeRecord_length (s : State) (a : Nat) : (s.encodeRecord a).length = s.halfLen := by
  simp [State.encodeRecord, List.length_flatMap, encodeByte_length, State.halfLen, Nat.mul_comm]

/-! ### The conditions, as propositions -/

theorem cursorInData_iff (s : State) : s.cursorInData = true ↔ s.outIndex.toNat < s.n.toNat * s.bpp := by
  simp only [State.cursorInData, decide_eq_true_eq]; rfl

theorem allQueued_iff (s : State) : s.allQueued = true ↔ (s.n.toNat + 2) * s.bpp ≤ s.outIndex.toNat := by
  simp only [State.allQueued, decide_eq_true_eq]

theorem cursorWaitDone_iff (s : State) (p : Nat) :
    s.cursorWaitDone p = true ↔ s.ready = true ∨ (p + 1) * s.bpp ≤ s.outIndex.toNat := by
  simp only [State.cursorWaitDone, Bool.or_eq_true, decide_eq_true_eq]

theorem eventEnabled_iff (s : State) (e : Event) :
    s.eventEnabled e = true ↔ s.irqEn = true ∧ (s.pend = some e ∨ e = .err ∧ s.pend ≠ none) := by
  simp only [State.eventEnabled, Bool.and_eq_true, Bool.or_eq_true, decide_eq_true_eq, Option.isSome_iff_ne_none]

theorem dueEvent_eq_some_iff (s : State) (e : Event) :
    s.dueEvent = some e ↔ s.irqEn = true ∧ ∃ p, s.pend = some p ∧
      e = if s.turns.head? = some .jointError then .err else p := by
  unfold State.dueEvent
  cases s.irqEn <;> cases s.pend <;> simp
  split <;> simp [eq_comm]

/-! ### Reads of the memories after a write -/

@[simp] theorem fbRead_fbWrite (s : State) (a : Nat) (v : Byte) (a' : Nat) :
    (s.fbWrite a v).fbRead a' = if a' = a then v else s.fbRead a' := by
  simp only [State.fbRead, State.fbWrite_fb, State.fbWrite_powerUp, Memory.get?_set]
  split <;> rfl

theorem fbRead_fbWriteAll (s : State) (vs : List Byte) (a : Nat) :
    (s.fbWriteAll vs).fbRead a = (vs[a]?).getD (s.fbRead a) := by
  simp only [State.fbRead, State.fbWriteAll_fb, State.fbWriteAll_powerUp, Memory.get?_writeRun, Nat.zero_le, true_and,
    Nat.zero_add, Nat.sub_zero]
  split
  · next h => simp [List.getElem?_eq_getElem h]
  · next h => simp [List.getElem?_eq_none (Nat.le_of_not_lt h)]

theorem dmaRead_fillHalf (s : State) (h : Half) (ds : List Duty) (e : Nat) :
    (s.fillHalf h ds).dmaRead e =
      if s.halfBase h ≤ e ∧ e < s.halfBase h + ds.length then (ds[e - s.halfBase h]?).getD 0 else s.dmaRead e := by
  simp only [State.dmaRead, State.fillHalf_dma, State.fillHalf_powerUp, Memory.get?_writeRun]
  split
  · next hr =>
    have hb : e - s.halfBase h < ds.length := by omega
    simp [List.getElem?_eq_getElem hb]
  · rfl

@[simp] theorem fbRead_fillHalf (s : State) (h : Half) (ds : List Duty) (a : Nat) :
    (s.fillHalf h ds).fbRead a = s.fbRead a := rfl

@[simp] theorem fbRead_retire (s : State) (a : Nat) : s.retire.fbRead a = s.fbRead a := rfl

@[simp] theorem dmaRead_retire (s : State) (e : Nat) : s.retire.dmaRead e = s.dmaRead e := rfl

/-! ### fillUnit -/

/-- The entries fillUnit writes: the encoded record at the cursor, or H zeros. -/
def State.cursorEntries (s : State) : List Duty :=
  if s.cursorInData then s.encodeRecord s.outIndex.toNat else List.replicate s.halfLen 0

theorem cursorEntries_length (s : State) : s.cursorEntries.length = s.halfLen := by
  unfold State.cursorEntries; split <;> simp [encodeRecord_length]

/-- Everything fillUnit can answer. -/
theorem fillUnit_eq (s : State) (h : Half) :
    s.fillUnit h =
      if s.recordPassesEnd then .error (.fbAddress s.fbSize)
      else .ok { s.fillHalf h s.cursorEntries with outIndex := s.outIndex + BitVec.ofNat 32 s.bpp } := by
  unfold State.fillUnit State.cursorEntries State.zeroHalf
  split
  · rfl
  · split <;> rfl

/-- A cursor that is a multiple of bpp never makes fillUnit leave the FrameBuffer (41_bitstream_encoder.md R136 (a)). -/
theorem recordPassesEnd_of_aligned (s : State) (h : s.outIndex.toNat % s.bpp = 0) : s.recordPassesEnd = false := by
  refine Bool.eq_false_iff.mpr fun hc => ?_
  simp only [State.recordPassesEnd, Bool.and_eq_true, cursorInData_iff, decide_eq_true_eq] at hc
  simp only [State.fbSize] at hc
  obtain ⟨hlt, hgt⟩ := hc
  obtain ⟨q, hq⟩ := Nat.dvd_of_mod_eq_zero h
  have hq' : s.outIndex.toNat = q * s.bpp := hq.trans (Nat.mul_comm _ _)
  rw [hq'] at hlt hgt
  have hmul := Nat.mul_le_mul_right s.bpp (Nat.succ_le_of_lt (Nat.lt_of_mul_lt_mul_right hlt))
  rw [Nat.succ_mul] at hmul
  omega

/-- fillUnit from an aligned cursor. -/
theorem fillUnit_of_aligned (s : State) (h : Half) (ha : s.outIndex.toNat % s.bpp = 0) :
    s.fillUnit h =
      .ok { s.fillHalf h s.cursorEntries with outIndex := s.outIndex + BitVec.ofNat 32 s.bpp } := by
  rw [fillUnit_eq, recordPassesEnd_of_aligned s ha]; rfl

/-- Whatever fillUnit answers, it changes only the DMA buffer and the cursor (41_bitstream_encoder.md R135). -/
theorem fillUnit_frame {s t : State} {h : Half} (ht : s.fillUnit h = .ok t) :
    t = { s with dma := t.dma, outIndex := s.outIndex + BitVec.ofNat 32 s.bpp } := by
  rw [fillUnit_eq] at ht
  split at ht
  · cases ht
  · cases ht; rfl

/-! ### start -/

/-- start never faults, and this is what it answers (42_scheduler.md R144). -/
theorem startTransfer_eq (s : State) :
    s.startTransfer =
      .ok { s with
        dma := Memory.writeRun (Memory.writeRun s.dma 0 (List.replicate s.halfLen 0)) s.halfLen
          ({ s with outIndex := 0 } : State).cursorEntries
        outIndex := BitVec.ofNat 32 s.bpp
        ready := false
        phase := .streaming
        irqEn := true
        hwRun := true
        rp := 0
        pend := none
        outputs := s.outputs ++ [.startPwmDma s.bufLen] } := by
  unfold State.startTransfer
  simp only
  rw [fillUnit_of_aligned _ _ (by simp)]
  simp [State.startPwmDma, State.zeroHalf, State.fillHalf, State.halfBase, State.cursorEntries, State.cursorInData,
    State.encodeRecord, State.fbSize, State.halfLen, State.bufLen, State.bpp, State.encodeByte, State.lut, State.fbRead]

/-! ### Events -/

/-- Everything taking an event can answer (60_exceptions.md R199 to R201). -/
theorem takeEvent_next_iff {e : Event} {handler : State → Except Fault State} {s t : State} :
    takeEvent e handler s = .next t ↔ s.eventEnabled e = true ∧ ∃ u, handler s = .ok u ∧ t = u.returnFromEvent := by
  unfold takeEvent
  split
  · next h =>
    split
    · next u hu => simp [h, hu, eq_comm]
    · next f hf => simp [h, hf]
  · next h => simp [h]

/-! ### The engine -/

/-- Everything an engine step can answer (60_exceptions.md R206). -/
theorem engineStep_next_cases {s t : State} (h : engineStep s = .next t) :
    t = s ∧ ¬(s.hwRun = true ∧ s.pend = none) ∨
    s.hwRun = true ∧ s.pend = none ∧ s.rp.toNat < s.bufLen ∧
      t = { s with
        wire := s.wire ++ [s.dmaRead s.rp.toNat]
        rp := if s.rp.toNat + 1 = s.bufLen then 0 else BitVec.ofNat 6 (s.rp.toNat + 1)
        pend := if s.rp.toNat + 1 = s.bufLen then some .tc
                else if s.rp.toNat + 1 = s.halfLen then some .ht else none } := by
  unfold engineStep at h
  split at h
  · next hc =>
    simp only [Bool.and_eq_true, decide_eq_true_eq] at hc
    right
    simp only at h
    split at h
    · cases h
    · next hle =>
      refine ⟨hc.1, hc.2, by omega, ?_⟩
      split at h
      · next hL => cases h; simp [hL]
      · next hL =>
        split at h
        · next hH => cases h; rw [if_neg hL, if_neg hL, if_pos hH]
        · next hH => cases h; rw [if_neg hL, if_neg hL, if_neg hH, hc.2]
  · next hc =>
    cases h
    left
    simpa using hc

end Sys2Proof.Machine
end

