-- ==== Sys2Proof/Laws/Access.lean ====
section
/-! SUPPORT. What one access can do, per kind of command; and what a sequence of accesses gives. -/

namespace Sys2Proof.Machine

/-! ### Sequences -/

@[simp] theorem performAll_nil (s : State) : s.performAll [] = s := rfl

@[simp] theorem performAll_cons (s : State) (a : Access) (l : List Access) :
    s.performAll (a :: l) = (s.perform a).performAll l := rfl

@[simp] theorem performAll_append (s : State) (l k : List Access) :
    s.performAll (l ++ k) = (s.performAll l).performAll k := List.foldl_append

/-! ### Frames -/

/-- No access writes the configuration, the wire, the program, the schedule or the list of accesses. -/
theorem perform_frame (s : State) (a : Access) :
    s.perform a = { s with
      brightness := (s.perform a).brightness
      fb := (s.perform a).fb
      dma := (s.perform a).dma
      outIndex := (s.perform a).outIndex
      ready := (s.perform a).ready
      phase := (s.perform a).phase
      irqEn := (s.perform a).irqEn
      hwRun := (s.perform a).hwRun
      rp := (s.perform a).rp
      pend := (s.perform a).pend
      returned := (s.perform a).returned
      outputs := (s.perform a).outputs
      loaded := (s.perform a).loaded } := by cases a <;> rfl

/-- An access of a command other than SHOW writes FB, brightness, the result and the local bytes only
(60_exceptions.md R213). -/
theorem perform_frame_of_allowed {s : State} {a : Access} (h : a.AllowedIn s) :
    s.perform a = { s with
      fb := (s.perform a).fb
      brightness := (s.perform a).brightness
      returned := (s.perform a).returned
      loaded := (s.perform a).loaded } := by cases a <;> first | rfl | exact h.elim

/-- An access that primes writes DMA, the cursor, `ready`, the phase, `irq_en` and the local bytes only. -/
theorem perform_frame_of_primes {s : State} {a : Access} (h : a.PrimesIn s) :
    s.perform a = { s with
      dma := (s.perform a).dma
      outIndex := (s.perform a).outIndex
      ready := (s.perform a).ready
      phase := (s.perform a).phase
      irqEn := (s.perform a).irqEn
      loaded := (s.perform a).loaded } := by cases a <;> first | rfl | exact h.elim

theorem perform_turns (s : State) (ts : List Turn) (a : Access) :
    ({ s with turns := ts } : State).perform a = { s.perform a with turns := ts } := by cases a <;> rfl

theorem performAll_turns (s : State) (ts : List Turn) (l : List Access) :
    ({ s with turns := ts } : State).performAll l = { s.performAll l with turns := ts } := by
  induction l generalizing s with
  | nil => rfl
  | cons a l ih => rw [performAll_cons, perform_turns, ih, performAll_cons]

theorem perform_todo (s : State) (td : List Access) (a : Access) :
    ({ s with todo := td } : State).perform a = { s.perform a with todo := td } := by cases a <;> rfl

theorem performAll_todo (s : State) (td : List Access) (l : List Access) :
    ({ s with todo := td } : State).performAll l = { s.performAll l with todo := td } := by
  induction l generalizing s with
  | nil => rfl
  | cons a l ih => rw [performAll_cons, perform_todo, ih, performAll_cons]

/-! ### The memories -/

theorem fbForm_perform {s : State} (h : Memory.wf s.fb) (a : Access) : Memory.wf (s.perform a).fb := by
  cases a <;> first | exact h | exact Memory.wf_set h _ _

theorem dmaForm_perform {s : State} (h : Memory.wf s.dma) (a : Access) : Memory.wf (s.perform a).dma := by
  cases a <;> first | exact h | exact Memory.wf_set h _ _

theorem fbRange_perform {s : State} (h : Memory.below s.fb s.fbSize) {a : Access} (ha : a.AllowedIn s) :
    Memory.below (s.perform a).fb s.fbSize := by
  cases a <;> first | exact h | exact ha.elim | exact Memory.below_set h ha.1 _

theorem dmaRange_perform {s : State} (h : Memory.below s.dma s.bufLen) {a : Access} (ha : a.PrimesIn s) :
    Memory.below (s.perform a).dma s.bufLen := by
  cases a <;> first | exact h | exact ha.elim | exact Memory.below_set h ha _

/-- An access of a command other than SHOW changes no byte at or after the cursor while a transfer is active
(20_memory.md R67 (a)). -/
theorem fbRead_perform_of_allowed {s : State} {a : Access} (h : a.AllowedIn s) (hr : s.ready = false) {x : Nat}
    (hx : s.outIndex.toNat ≤ x) : (s.perform a).fbRead x = s.fbRead x := by
  cases a with
  | storeFb b v =>
    have hb : b < s.outIndex.toNat := by simpa [hr] using h.2
    simp only [State.perform, fbRead_fbWrite]; rw [if_neg (by omega)]
  | storeScaled b v =>
    have hb : b < s.outIndex.toNat := by simpa [hr] using h.2
    simp only [State.perform, fbRead_fbWrite]; rw [if_neg (by omega)]
  | storeRescaled b v => exact absurd h.2 (by simp [hr])
  | _ => rfl

end Sys2Proof.Machine
end

