-- ==== Sys2Proof/Laws/PerInstr.lean ====
section
/-! SUPPORT. Facts about every instruction as syntax, one lemma per constructor. -/

namespace Sys2Proof.Laws.EncodedFields

/-- The fields an instruction is encoded from pass the check of 30_encoding.md R95, and no other context but its own
accepts it. -/
def Statement (i : Instr) : Prop :=
  (instrFields i).wf = true ∧ i.wfIn i.context = true ∧ ∀ c, i.wfIn c = true → c = i.context

theorem showCmd : Statement .showCmd :=
  ⟨rfl, rfl, fun c h => by cases c <;> simp_all [Instr.wfIn, Instr.context]⟩
theorem clearCmd : Statement .clearCmd :=
  ⟨rfl, rfl, fun c h => by cases c <;> simp_all [Instr.wfIn, Instr.context]⟩
theorem waitCmd : Statement .waitCmd :=
  ⟨rfl, rfl, fun c h => by cases c <;> simp_all [Instr.wfIn, Instr.context]⟩
theorem setPix (n : BitVec 16) (color : ColorWord) : Statement (.setPix n color) :=
  ⟨rfl, rfl, fun c h => by cases c <;> simp_all [Instr.wfIn, Instr.context]⟩
theorem getPix (n : BitVec 16) : Statement (.getPix n) :=
  ⟨rfl, rfl, fun c h => by cases c <;> simp_all [Instr.wfIn, Instr.context]⟩
theorem setBri (data : BitVec 32) : Statement (.setBri data) :=
  ⟨rfl, rfl, fun c h => by cases c <;> simp_all [Instr.wfIn, Instr.context]⟩
theorem ht : Statement .ht :=
  ⟨rfl, rfl, fun c h => by cases c <;> simp_all [Instr.wfIn, Instr.context]⟩
theorem tc : Statement .tc :=
  ⟨rfl, rfl, fun c h => by cases c <;> simp_all [Instr.wfIn, Instr.context]⟩
theorem err : Statement .err :=
  ⟨rfl, rfl, fun c h => by cases c <;> simp_all [Instr.wfIn, Instr.context]⟩

end Sys2Proof.Laws.EncodedFields
end

