-- ==== Sys2Proof/Laws/Safety.lean ====
section
/-! SUPPORT. Lemmas about the terms of Safety.lean: what a filled half holds, which updates the invariant does not
notice, and the arithmetic of the cursor. -/

namespace Sys2Proof.Machine

/-! ### What a half holds -/

/-- Entry 8 j + k of an encoded record is the duty of bit 7 - k of its byte j (30_encoding.md R87). -/
theorem encodeRecord_getElem? (s : State) (a j k : Nat) (hj : j < s.bpp) (hk : k < 8) :
    (s.encodeRecord a)[8 * j + k]? = some (s.lut ((s.fbRead (a + j)).getLsbD (7 - k))) := by
  suffices h : ∀ n, j < n → ((List.range n).flatMap (fun j => s.encodeByte (s.fbRead (a + j))))[8 * j + k]? =
      some (s.lut ((s.fbRead (a + j)).getLsbD (7 - k))) from h _ hj
  intro n hn
  induction n with
  | zero => omega
  | succ n ih =>
    rw [List.range_succ, List.flatMap_append]
    have hl : ((List.range n).flatMap (fun j => s.encodeByte (s.fbRead (a + j)))).length = 8 * n := by
      simp [List.length_flatMap, encodeByte_length, Nat.mul_comm]
    by_cases h : j < n
    · rw [List.getElem?_append_left (by omega)]; exact ih h
    · obtain rfl : j = n := by omega
      rw [List.getElem?_append_right (by omega), hl]
      simp [State.encodeByte, hk]

/-- A state whose DMA buffer is that of `s` with half `h` filled from the cursor holds the unit there. -/
theorem holdsUnit_of_fillHalf {s t : State} {h : Half} (ht : t.dma = (s.fillHalf h s.cursorEntries).dma)
    (hp : t.powerUp = s.powerUp) : HalfHoldsUnit s t h ∧ OutsideHalfSame s t h := by
  have key : ∀ e, t.dmaRead e = (s.fillHalf h s.cursorEntries).dmaRead e := fun e => by
    simp only [State.dmaRead, ht, hp]; rfl
  simp only [HalfHoldsUnit, OutsideHalfSame, key, dmaRead_fillHalf, cursorEntries_length]
  refine ⟨⟨fun hd j hj k hk => ?_, fun hd e he => ?_⟩, fun e he => by rw [if_neg he]⟩
  · have hb : 8 * j + k < s.halfLen := by simp only [State.halfLen]; omega
    have hc : s.cursorEntries = s.encodeRecord s.outIndex.toNat := by
      unfold State.cursorEntries; rw [if_pos ((cursorInData_iff s).2 hd)]
    rw [if_pos (by omega), hc, show s.halfBase h + 8 * j + k - s.halfBase h = 8 * j + k by omega,
      encodeRecord_getElem? s _ j k hj hk]
    rfl
  · have hc : s.cursorEntries = List.replicate s.halfLen 0 := by
      unfold State.cursorEntries
      rw [if_neg]
      intro hin
      have := (cursorInData_iff s).1 hin
      omega
    rw [if_pos (by omega), hc]
    simp [he]

/-- A channel of a pixel of the strip lies in the FrameBuffer (20_memory.md R51). -/
theorem chanAddr_lt {s : State} {p : Nat} {c : Channel} {a : Nat} (h : s.chanAddr p c = some a)
    (hp : p < s.n.toNat) : a < s.fbSize := by
  simp only [State.chanAddr, Option.map_eq_some_iff] at h
  obtain ⟨o, ho, rfl⟩ := h
  have h1 : o < s.bpp := chanOff_lt _ _ _ ho
  have h2 := Nat.mul_le_mul_right s.bpp (Nat.succ_le_of_lt hp)
  rw [Nat.succ_mul] at h2
  simp only [State.fbSize]
  omega

/-! ### Updates the invariant does not notice -/

theorem State.Priming.withTurns {s : State} {l : List Access} (h : s.Priming l) (ts : List Turn) :
    ({ s with turns := ts } : State).Priming l :=
  ⟨h.pixels, h.begun, h.engine, h.noEvent, h.accesses, by rw [performAll_turns]; exact h.notReady,
    by rw [performAll_turns]; exact h.phase, by rw [performAll_turns]; exact h.cursor,
    by rw [performAll_turns]; exact h.events⟩

theorem State.CommandInOrder.withTurns {s : State} (h : s.CommandInOrder) (ts : List Turn) :
    ({ s with turns := ts } : State).CommandInOrder := by
  rcases h with h | ⟨l, hl, hp⟩
  · exact .inl h
  · exact .inr ⟨l, hl, hp.withTurns ts⟩

theorem State.Inv.withTurns {s : State} (h : s.Inv) (ts : List Turn) : ({ s with turns := ts } : State).Inv :=
  ⟨h.fbForm, h.fbRange, h.dmaForm, h.dmaRange, h.rpRange, fun hs => let l := h.labelled hs; ⟨l.row, l.draining⟩, h.aligned, h.bounded, h.stopped, h.complete,
    fun hr => let f := h.flying hr; ⟨f.pixels, f.started, f.evenPart, f.oddPart⟩, h.command.withTurns ts, h.locals⟩

/-- Between two commands the invariant sees neither the program, nor the results, nor the brightness, nor what the
FrameBuffer holds. -/
theorem State.Inv.withForeground {s : State} (h : s.Inv) (ht : s.todo = []) (p : List CmdWord) (r : List ColorWord)
    (b : Byte) (m : Memory 8) (hf : Memory.wf m) (hr : Memory.below m s.fbSize) :
    ({ s with prog := p, returned := r, brightness := b, fb := m } : State).Inv :=
  ⟨hf, hr, h.dmaForm, h.dmaRange, h.rpRange, fun hs => let l := h.labelled hs; ⟨l.row, l.draining⟩, h.aligned, h.bounded, h.stopped, h.complete,
    fun hr => let f := h.flying hr; ⟨f.pixels, f.started, f.evenPart, f.oddPart⟩,
    .inl fun a ha => (by rw [show _ = s.todo from rfl, ht] at ha; cases ha), h.locals⟩

theorem State.Inv.withProg {s : State} (h : s.Inv) (ht : s.todo = []) (p : List CmdWord) :
    ({ s with prog := p } : State).Inv :=
  h.withForeground ht p s.returned s.brightness s.fb h.fbForm h.fbRange

/-! ### The body of start -/

theorem State.inStart_of_left {s : State} {l : List Access} (ht : s.todo = l ++ [.startEngine]) : s.inStart = true := by
  simp [State.inStart, ht]

theorem State.inStart_of_allowed {s : State} (h : ∀ a ∈ s.todo, a.AllowedIn s) : s.inStart = false :=
  Bool.eq_false_iff.mpr fun hc => h .startEngine (List.contains_iff_mem.mp hc)

/-- Inside start the engine is stopped and nothing pends (42_scheduler.md R145 (b)). -/
theorem State.Inv.stopped_of_inStart {s : State} (h : s.Inv) (hs : s.inStart = true) :
    s.hwRun = false ∧ s.pend = none := by
  rcases h.command with hc | ⟨_, _, hp⟩
  · rw [State.inStart_of_allowed hc] at hs; cases hs
  · exact ⟨hp.engine, hp.noEvent⟩

/-- While the engine runs, the phase is the label of R37. -/
theorem State.Inv.labelled_of_hwRun {s : State} (h : s.Inv) (hr : s.hwRun = true) : s.Labelled :=
  h.labelled (by
    cases hs : s.inStart with
    | false => rfl
    | true => rw [(h.stopped_of_inStart hs).1] at hr; cases hr)

theorem State.Labelled.notReady_of_hwRun {s : State} (h : s.Labelled) (hr : s.hwRun = true) : s.ready = false := by
  rcases h.row with ⟨_, _, h3, _⟩ | ⟨_, h2, _⟩ | ⟨_, h2, _⟩ | ⟨_, _, h3, _⟩
  · rw [hr] at h3; cases h3
  · exact h2
  · exact h2
  · rw [hr] at h3; cases h3

/-- A command in progress other than SHOW that is over leaves the invariant. -/
theorem State.Inv.endCommand {s : State} (h : s.Inv) (hs : s.inStart = false) : s.endCommand.Inv :=
  ⟨h.fbForm, h.fbRange, h.dmaForm, h.dmaRange, h.rpRange, fun _ => let l := h.labelled hs; ⟨l.row, l.draining⟩, h.aligned,
    h.bounded, h.stopped, fun _ => h.complete hs,
    fun hr => let f := h.flying hr; ⟨f.pixels, f.started, f.evenPart, f.oddPart⟩, .inl fun _ ha => (by cases ha), fun _ => rfl⟩

/-! ### The row and the cursor -/

/-- With an event enabled to arrive the engine runs (10_state.md R37). -/
theorem State.Inv.in_flight_of_dueEvent {s : State} (h : s.Inv) {e : Event} (hd : s.dueEvent = some e) :
    s.hwRun = true ∧ s.ready = false ∧ s.irqEn = true := by
  obtain ⟨hi, p, hp, -⟩ := (dueEvent_eq_some_iff s e).mp hd
  have hr : s.hwRun = true := by
    cases hr : s.hwRun with
    | true => rfl
    | false => have := h.stopped hr; rw [hp] at this; cases this
  exact ⟨hr, (h.labelled_of_hwRun hr).notReady_of_hwRun hr, hi⟩

/-- In flight the cursor is (k + 1) * bpp after k events, and advancing it does not wrap (10_state.md R28, R38). -/
theorem State.Inv.cursor_eq {s : State} (h : s.Inv) (hr : s.hwRun = true) :
    s.outIndex.toNat = (s.eventsHandled + 1) * s.bpp ∧
      (s.outIndex + BitVec.ofNat 32 s.bpp).toNat = (s.eventsHandled + 2) * s.bpp ∧ s.eventsHandled ≤ s.n.toNat + 1 := by
  have f := h.flying hr
  have hb := bpp_pos s
  have hb4 : s.bpp ≤ 4 := by rcases bpp_three_or_four s with h | h <;> omega
  obtain ⟨q, hq⟩ := Nat.dvd_of_mod_eq_zero h.aligned
  have hq1 : 1 ≤ q := by
    rcases Nat.eq_zero_or_pos q with h0 | h0
    · have := f.started; rw [hq, h0] at this; omega
    · exact h0
  have hev : s.eventsHandled = q - 1 := by unfold State.eventsHandled; rw [hq, Nat.mul_div_cancel_left _ hb]
  have hk : s.eventsHandled ≤ s.n.toNat + 1 := by
    rcases Nat.mod_two_eq_zero_or_one s.eventsHandled with h' | h'
    · have := (f.evenPart h').1; omega
    · exact (f.oddPart h').1
  have h1 : s.outIndex.toNat = q * s.bpp := hq.trans (Nat.mul_comm _ _)
  have hn := s.n.isLt
  have hqb : q * s.bpp ≤ 65538 * 4 := Nat.mul_le_mul (by omega) hb4
  refine ⟨by rw [h1, hev]; congr 1; omega, ?_, hk⟩
  rw [BitVec.toNat_add, BitVec.toNat_ofNat, h1, hev]
  have h2 : (q - 1 + 2) * s.bpp = q * s.bpp + s.bpp := by rw [← Nat.succ_mul]; congr 1; omega
  rw [h2]
  omega

end Sys2Proof.Machine
end

