-- ==== Sys2Proof/Laws/Step.lean ====
section
/-! SUPPORT. What one step can do: the inversion lemma every invariant is proved from. -/

namespace Sys2Proof.Machine

theorem presentWord_ok {c : Context} {w : CmdWord} {i : Instr} (hd : decode w = .ok i) (hc : i.wfIn c = true)
    (s : State) : presentWord c w s = .run i s := by simp [presentWord, hd, hc]

/-- Every event's word decodes to its instruction. -/
theorem decode_encode_event (e : Event) : decode (encode e.instr) = .ok e.instr := by cases e <;> decide

theorem event_instr_wfIn (e : Event) : e.instr.wfIn .interrupt = true := by cases e <;> rfl

/-- A due event is delivered (60_exceptions.md R207). -/
theorem step_of_dueEvent {s : State} {e : Event} (h : s.dueEvent = some e) : step s = exec e.instr s := by
  unfold step State.nextMove
  rw [h]
  simp only [presentWord_ok (decode_encode_event e) (event_instr_wfIn e)]

theorem step_of_no_turn {s : State} (h : s.dueEvent = none) (ht : s.turns = []) : step s = .next s := by
  unfold step State.nextMove; rw [h, ht]

/-- With no event due the schedule says whose turn it is. -/
theorem nextMove_of_turn {s : State} {x : Turn} {ts : List Turn} (h : s.dueEvent = none) (ht : s.turns = x :: ts) :
    s.nextMove = ({ s with turns := ts } : State).turnMove x := by
  unfold State.nextMove; rw [h, ht]

theorem step_of_engine {s : State} {ts : List Turn} (h : s.dueEvent = none) (ht : s.turns = .engine :: ts) :
    step s = engineStep { s with turns := ts } := by
  unfold step; rw [nextMove_of_turn h ht]; rfl

theorem step_of_hwError {s : State} {ts : List Turn} (h : s.dueEvent = none) (ht : s.turns = .hwError :: ts) :
    step s = .next (reportError { s with turns := ts }) := by
  unfold step; rw [nextMove_of_turn h ht]; rfl

theorem step_of_jointError {s : State} {ts : List Turn} (h : s.dueEvent = none) (ht : s.turns = .jointError :: ts) :
    step s = .next { s with turns := ts } := by
  unfold step; rw [nextMove_of_turn h ht]; rfl

theorem foregroundMove_of_todo {s : State} {a : Access} {l : List Access} (ht : s.todo = a :: l) (whole : Bool) :
    s.foregroundMove whole = .settle (.next (if whole then s.finishCommand else s.makeAccess)) := by
  unfold State.foregroundMove; simp only [ht]

theorem foregroundMove_of_done {s : State} (ht : s.todo = []) (hp : s.prog = []) (whole : Bool) :
    s.foregroundMove whole = .settle (.next s) := by
  unfold State.foregroundMove; simp only [ht, hp]

theorem foregroundMove_of_word {s : State} {w : CmdWord} {p : List CmdWord} {i : Instr} (ht : s.todo = [])
    (hp : s.prog = w :: p) (hw : decode w = .ok i) (hc : i.wfIn .foreground = true) (whole : Bool) :
    s.foregroundMove whole = if whole then .run i s else .settle (.next (beginCommand i s)) := by
  unfold State.foregroundMove; simp only [ht, hp, presentWord_ok hw hc]

theorem foregroundMove_of_undecodable {s : State} {w : CmdWord} {p : List CmdWord} {d : DecodeError} (ht : s.todo = [])
    (hp : s.prog = w :: p) (hw : decode w = .error d) (whole : Bool) :
    s.foregroundMove whole = .refuse (refusalOf d) := by
  unfold State.foregroundMove; simp only [ht, hp, presentWord, hw]

theorem foregroundMove_of_event_word {s : State} {w : CmdWord} {p : List CmdWord} {i : Instr} (ht : s.todo = [])
    (hp : s.prog = w :: p) (hw : decode w = .ok i) (hc : i.context = .interrupt) (whole : Bool) :
    s.foregroundMove whole = .refuse .wrongContext := by
  unfold State.foregroundMove; simp [ht, hp, presentWord, hw, Instr.wfIn, hc]

theorem step_of_nextMove_settle {s : State} {o : Host.Outcome State Fault Refusal} (h : s.nextMove = .settle o) :
    step s = o := by
  unfold step; rw [h]

theorem step_of_nextMove_run {s t : State} {i : Instr} (h : s.nextMove = .run i t) : step s = exec i t := by
  unfold step; rw [h]

theorem step_of_nextMove_refuse {s : State} {r : Refusal} (h : s.nextMove = .refuse r) : step s = .refused r := by
  unfold step; rw [h]

/-- Everything a foreground's turn that goes on can be: more of the command in progress, nothing, or the current command
run or begun. -/
inductive ForegroundCase (s t : State) (whole : Bool) : Prop where
  | goesOn (a : Access) (l : List Access) (ht : s.todo = a :: l)
      (h : t = if whole then s.finishCommand else s.makeAccess)
  | done (ht : s.todo = []) (hp : s.prog = []) (h : t = s)
  | runs (hw : whole = true) (w : CmdWord) (p : List CmdWord) (i : Instr) (ht : s.todo = []) (hp : s.prog = w :: p)
      (hd : decode w = .ok i) (hc : i.context = .foreground) (h : exec i s = .next t)
  | begins (hw : whole = false) (w : CmdWord) (p : List CmdWord) (i : Instr) (ht : s.todo = []) (hp : s.prog = w :: p)
      (hd : decode w = .ok i) (hc : i.context = .foreground) (h : t = beginCommand i s)

/-- Everything a step that goes on can be: a delivered event, nothing, an engine step, an error report, an error together
with no event, or a turn of the foreground's. -/
inductive StepCase (s t : State) : Prop where
  | event (e : Event) (hd : s.dueEvent = some e) (h : exec e.instr s = .next t)
  | nothing (hd : s.dueEvent = none) (ht : s.turns = []) (h : t = s)
  | engine (hd : s.dueEvent = none) (ts : List Turn) (ht : s.turns = .engine :: ts)
      (h : engineStep { s with turns := ts } = .next t)
  | error (hd : s.dueEvent = none) (ts : List Turn) (ht : s.turns = .hwError :: ts)
      (h : t = reportError { s with turns := ts })
  | joint (hd : s.dueEvent = none) (ts : List Turn) (ht : s.turns = .jointError :: ts) (h : t = { s with turns := ts })
  | foreground (hd : s.dueEvent = none) (ts : List Turn) (whole : Bool)
      (ht : s.turns = (if whole then .foreground else .access) :: ts)
      (h : ForegroundCase { s with turns := ts } t whole)

theorem foregroundMove_cases {s u t : State} {whole : Bool} (hm : s.nextMove = u.foregroundMove whole)
    (h : step s = .next t) : ForegroundCase u t whole := by
  cases htd : u.todo with
  | cons a l =>
    rw [step_of_nextMove_settle (hm.trans (foregroundMove_of_todo htd whole))] at h
    injection h with h
    exact .goesOn a l htd h.symm
  | nil =>
    cases hp : u.prog with
    | nil =>
      rw [step_of_nextMove_settle (hm.trans (foregroundMove_of_done htd hp whole))] at h
      injection h with h
      exact .done htd hp h.symm
    | cons w p =>
      cases hw : decode w with
      | error d =>
        rw [step_of_nextMove_refuse (hm.trans (foregroundMove_of_undecodable htd hp hw whole))] at h
        cases h
      | ok i =>
        cases hc : i.context with
        | interrupt =>
          rw [step_of_nextMove_refuse (hm.trans (foregroundMove_of_event_word htd hp hw hc whole))] at h
          cases h
        | foreground =>
          have hm' := hm.trans (foregroundMove_of_word htd hp hw (by simp [Instr.wfIn, hc]) whole)
          cases whole with
          | true => rw [step_of_nextMove_run hm'] at h; exact .runs rfl w p i htd hp hw hc h
          | false =>
            rw [step_of_nextMove_settle hm'] at h
            injection h with h
            exact .begins rfl w p i htd hp hw hc h.symm

theorem step_next_cases {s t : State} (h : step s = .next t) : StepCase s t := by
  cases hd : s.dueEvent with
  | some e => exact .event e hd (by rw [← step_of_dueEvent hd]; exact h)
  | none =>
    match hts : s.turns with
    | [] => exact .nothing hd hts (by rw [step_of_no_turn hd hts] at h; injection h with h; exact h.symm)
    | .engine :: ts => exact .engine hd ts hts (by rw [← step_of_engine hd hts]; exact h)
    | .hwError :: ts =>
      exact .error hd ts hts (by rw [step_of_hwError hd hts] at h; injection h with h; exact h.symm)
    | .jointError :: ts =>
      exact .joint hd ts hts (by rw [step_of_jointError hd hts] at h; injection h with h; exact h.symm)
    | .foreground :: ts => exact .foreground hd ts true hts (foregroundMove_cases (nextMove_of_turn hd hts) h)
    | .access :: ts => exact .foreground hd ts false hts (foregroundMove_cases (nextMove_of_turn hd hts) h)

end Sys2Proof.Machine
end

