-- ==== Sys2Proof/Tests/Slice0.lean ====
section
/-! SUPPORT. The model's own tests. Expected values are those of 95_test_vectors.md (its part in each docstring) and of
the worked examples in the rules; the witnesses show that the hypotheses of each statement can be met. -/

namespace Sys2Proof.Tests

open Sys2Proof Sys2Proof.Machine

/-! ### Small states -/

/-- An idle strip whose FrameBuffer holds `bytes` from address 0. -/
def strip (layout : Layout) (n : BitVec 16) (b : Byte) (bytes : List Byte) : State :=
  { State.reset with layout := layout, n := n, brightness := b, fb := Memory.writeRun [] 0 bytes }

/-- The same strip with a transfer in flight. -/
def sending (s : State) (cursor : BitVec 32) (rp : BitVec 6) (phase : Phase) (pend : Option Event) : State :=
  { s with outIndex := cursor, rp := rp, phase := phase, pend := pend, ready := false, irqEn := true, hwRun := true }

/-- Three GRB pixels: red, black, black (program P1). -/
def red3 : State := strip .grb 3 0 [0, 255, 0, 0, 0, 0, 0, 0, 0]

/-- `red3` with the cursor at `cursor`. -/
def red3Sending (cursor : BitVec 32) (rp : BitVec 6) (phase : Phase) (pend : Option Event) : State :=
  sending red3 cursor rp phase pend

/-- `red3` with start before its last access, the arming of the engine. -/
def red3Arming (ts : List Turn) : State :=
  { red3 with
    outIndex := 3
    ready := false
    phase := .priming
    irqEn := true
    todo := [.startEngine]
    turns := ts }

/-- What `f` says of the next state; none where there is no next state. -/
def after {α : Type} (o : Host.Outcome State Fault Refusal) (f : State → α) : Option α :=
  match o with
  | .next t => some (f t)
  | _       => none

/-- `k` entries of value `d`. -/
def run (k : Nat) (d : Duty) : List Duty := List.replicate k d

/-- The DMA entries 0 to L - 1 as a list. -/
def dmaList (s : State) : List Duty := (List.range s.bufLen).map s.dmaRead

/-- The FrameBuffer bytes 0 to N * bpp - 1 as a list. -/
def fbList (s : State) : List Byte := (List.range s.fbSize).map s.fbRead

/-! ### Well-formedness: an ill-formed term for each check -/

theorem test_wf_refuses_unknown_op : (CmdFields.mk 0x07 0 0).wf = false := by decide
theorem test_wf_refuses_show_with_n : (CmdFields.mk 0x01 1 0).wf = false := by decide
theorem test_wf_refuses_clear_with_data : (CmdFields.mk 0x02 0 1).wf = false := by decide
theorem test_wf_refuses_wait_with_n : (CmdFields.mk 0x03 0x8000 0).wf = false := by decide
theorem test_wf_refuses_getpix_with_data : (CmdFields.mk 0x05 2 0x80000000).wf = false := by decide
theorem test_wf_refuses_setbri_with_n : (CmdFields.mk 0x06 1 128).wf = false := by decide
theorem test_wf_refuses_ht_with_data : (CmdFields.mk 0x10 0 1).wf = false := by decide
theorem test_wf_refuses_op11_with_data_2 : (CmdFields.mk 0x11 0 2).wf = false := by decide
theorem test_wf_refuses_err_with_n : (CmdFields.mk 0x11 1 1).wf = false := by decide
theorem test_wf_refuses_event_in_foreground : Instr.ht.wfIn .foreground = false := by decide
theorem test_wf_refuses_command_in_interrupt : Instr.showCmd.wfIn .interrupt = false := by decide
theorem test_wf_refuses_layout_12 : (Params.mk 3 true 12 25 50 0).wf = false := by decide
theorem test_wf_refuses_zero_duty_0 : (Params.mk 3 true 3 0 50 0).wf = false := by decide
theorem test_wf_refuses_duties_not_ordered : (Params.mk 3 true 3 50 50 0).wf = false := by decide
theorem test_wf_accepts_part8 : (Params.mk 3 true 3 25 50 0).wf = true := by decide

/-! ### Decoding: the words of part 9 and of the programs of part 10 -/

theorem test_decode_show : decode 0x01000000000000 = .ok .showCmd := by decide
theorem test_decode_clear : decode 0x02000000000000 = .ok .clearCmd := by decide
theorem test_decode_wait : decode 0x03000000000000 = .ok .waitCmd := by decide
theorem test_decode_setpix : decode 0x0400010000FF00 = .ok (.setPix 1 0x0000FF00) := by decide
theorem test_decode_setpix_all_ones : decode 0x04FFFFFFFFFFFF = .ok (.setPix 65535 0xFFFFFFFF) := by decide
theorem test_decode_getpix : decode 0x05000200000000 = .ok (.getPix 2) := by decide
theorem test_decode_setbri : decode 0x0600000000012C = .ok (.setBri 300) := by decide
theorem test_decode_ht : decode 0x10000000000000 = .ok .ht := by decide
theorem test_decode_tc : decode 0x11000000000000 = .ok .tc := by decide
theorem test_decode_err : decode 0x11000000000001 = .ok .err := by decide
theorem test_decode_reserved_op_0 : decode 0 = .error (.reservedOp 0) := by decide
theorem test_decode_reserved_op_ff : decode 0xFF000000000000 = .error (.reservedOp 0xFF) := by decide
theorem test_decode_reserved_show_n : decode 0x01000100000000 = .error (.reservedField 1) := by decide
theorem test_decode_reserved_op11_data_2 : decode 0x11000000000002 = .error (.reservedField 0x11) := by decide
theorem test_encode_setpix : encode (.setPix 2 0x000000BB) = 0x040002000000BB := by decide
theorem test_tableWord_too_long : decodeTableWord 64 0x01000000000000 = none := by decide

/-! ### Colour model (part 2), table and encoder (part 3), layouts (part 4), calibration (41_bitstream_encoder.md R131) -/

theorem test_pack : pack 0x11 0x22 0x33 0x44 = 0x11223344 := by decide
theorem test_color : color 255 0 0 = 0x00FF0000 := by decide
theorem test_unpack : (channelOf 0x80000001 .w, channelOf 0x80000001 .b) = (128, 1) := by decide
theorem test_applyBrightness : [applyBrightness 255 128, applyBrightness 127 1, applyBrightness 128 1,
    applyBrightness 129 255, applyBrightness 50 64] = [128, 0, 1, 128, 13] := by decide
theorem test_reverseBrightness : [reverseBrightness 128 128, reverseBrightness 13 64, reverseBrightness 255 0,
    reverseBrightness 1 3, reverseBrightness 128 129] = [255, 52, 255, 85, 254] := by decide
theorem test_rescale : [rescale 64 128 255, rescale 128 128 0, rescale 50 64 255, rescale 32 64 32] =
    [128, 255, 199, 16] := by decide
theorem test_encodeByte : State.reset.encodeByte 0xA5 = [50, 25, 50, 25, 25, 50, 25, 50] := by decide
theorem test_address : (strip .wgrb 6 0 []).chanAddr 5 .b = some 23 := by decide
theorem test_no_white_channel : State.reset.chanAddr 0 .w = none := by decide
theorem test_calibration : (nominalPeriod 72, nominalZeroDuty 72, nominalOneDuty 72) = (90, 25, 50) := by decide

/-! ### One step of each instruction -/

/-- P1 step 3. -/
theorem test_show : after (exec .showCmd red3) (fun t => (dmaList t, t.outIndex)) =
    some (run 24 0 ++ run 8 25 ++ run 8 50 ++ run 8 25, 3) := by decide
/-- P6 step 5. -/
theorem test_show_empty_strip : after (exec .showCmd (strip .grb 0 10 [])) (fun t => (t.ready, t.hwRun, t.phase)) =
    some (true, false, .idle) := by decide
/-- P1 step 1; `FB = (7, 8, 9)` in 43_transfer_controller.md R173. -/
theorem test_clear : after (exec .clearCmd (strip .rgb 1 0 [7, 8, 9])) fbList = some [0, 0, 0] := by decide
/-- Part 6: CLEAR during a transfer is held. -/
theorem test_clear_held : exec .clearCmd (red3Sending 3 0 .streaming none) = .next (red3Sending 3 0 .streaming none) :=
  rfl
/-- Part 6: WAIT on an idle strip returns. -/
theorem test_wait : after (exec .waitCmd { red3 with prog := [0x03000000000000, 0x01000000000000] }) (fun t => t.prog) =
    some [0x01000000000000] := by decide
/-- Part 6: WAIT during a transfer is held. -/
theorem test_wait_held : after (exec .waitCmd { red3Sending 3 0 .streaming none with prog := [0x03000000000000] })
    (fun t => t.prog) = some [0x03000000000000] := by decide
/-- Part 4: layout WGRB. -/
theorem test_setpix : after (exec (.setPix 1 0x11223344) (strip .wgrb 2 0 [0, 0, 0, 0, 0, 0, 0, 0])) fbList =
    some [0, 0, 0, 0, 0x11, 0x33, 0x22, 0x44] := by decide
/-- P5 step 4: brightness 64. -/
theorem test_setpix_scaled : after (exec (.setPix 0 0x00FF8001) (strip .rgb 1 64 [50, 25, 13])) fbList =
    some [64, 32, 0] := by decide
/-- Part 4: layout GRB reads back without white. -/
theorem test_getpix : after (exec (.getPix 1) (strip .grb 2 0 [0, 0, 0, 0x33, 0x22, 0x44])) (fun t => t.returned) =
    some [0x00223344] := by decide
/-- P5 step 3: brightness 64. -/
theorem test_getpix_scaled : after (exec (.getPix 0) (strip .rgb 1 64 [50, 25, 13])) (fun t => t.returned) =
    some [0x00C86434] := by decide
/-- P5 step 2. -/
theorem test_setbri : after (exec (.setBri 64) (strip .rgb 1 0 [200, 100, 50])) (fun t => (fbList t, t.brightness)) =
    some ([50, 25, 13], 64) := by decide
/-- P5 step 5: 300 is ignored. -/
theorem test_setbri_invalid : after (exec (.setBri 300) (strip .rgb 1 64 [64, 32, 0]))
    (fun t => (fbList t, t.brightness)) = some ([64, 32, 0], 64) := by decide
/-- Part 3: the unit `(0x00, 0xFF, 0x80)` at cursor 3 into half A. -/
theorem test_ht : after (exec .ht (sending (strip .grb 3 0 [1, 2, 3, 0, 0xFF, 0x80, 4, 5, 6]) 3 24 .streaming
    (some .ht))) (fun t => ((dmaList t).take 24, t.outIndex, t.phase)) =
    some (run 8 25 ++ run 9 50 ++ run 7 25, 6, .streaming) := by decide
/-- Part 7: HT while events are disabled has no meaning. -/
theorem test_ht_disabled : exec .ht red3 = .refused (.spuriousEvent .ht) := rfl
/-- 60_exceptions.md R199: inside start, with events on and the engine not armed, ERR has no meaning. -/
theorem test_err_inside_start : exec .err (red3Arming []) = .refused (.spuriousEvent .err) := rfl
/-- P1 step 7: the completing event. -/
theorem test_tc_completes : after (exec .tc (red3Sending 12 0 .draining (some .tc)))
    (fun t => ((dmaList t).drop 24, t.outIndex, t.phase, t.ready, t.hwRun)) =
    some (run 24 0, 15, .complete, true, false) := by decide
/-- P1 step 5: the second event does not complete. -/
theorem test_tc_goes_on : after (exec .tc (red3Sending 6 0 .streaming (some .tc)))
    (fun t => (t.outIndex, t.phase, t.ready, t.irqEn)) = some (9, .streaming, false, true) := by decide
/-- Part 7: the abort at cursor 6, and the abort test. -/
theorem test_err : after (exec .err (red3Sending 6 29 .streaming (some .err)))
    (fun t => (t.outIndex, t.phase, t.ready, t.irqEn, t.looksAborted)) = some (6, .idle, true, false, true) := by decide
/-- Part 7: an error reported together with a due TC runs ERR only. -/
theorem test_err_wins_over_tc :
    after (step { red3Sending 12 0 .draining (some .tc) with turns := [.jointError] }) (fun t => (t.outIndex, t.phase)) =
    some (12, .idle) := by decide
/-- 60_exceptions.md R207, R210: with a TC due, an error that is not reported together with it comes after TC's handler. -/
theorem test_tc_before_err :
    after (step { red3Sending 6 0 .streaming (some .tc) with turns := [.hwError] })
      (fun t => (t.outIndex, t.ready, t.turns, after (step t) (fun u => u.pend))) =
    some (9, false, [.hwError], some (some .err)) := by decide
/-- 42_scheduler.md R145 (b): inside start neither an engine turn nor an error turn raises an event. -/
theorem test_no_event_inside_start : [Turn.engine, .hwError].map (fun x => after (step (red3Arming [x]))
    (fun t => (t.pend, t.wire, t.phase))) = [some (none, [], .priming), some (none, [], .priming)] := by decide
/-- 42_scheduler.md R143, R144: arming the engine makes the phase Streaming. -/
theorem test_arming : after (step (red3Arming [.access])) (fun t => (t.phase, t.hwRun, t.todo)) =
    some (.streaming, true, []) := by decide
/-- A word of 48 bits is the command word with its 8 high bits 0, here with the reserved op 0 (log 26). -/
theorem test_short_word : tableWord 48 0x0300000000FF = some 0x0300000000FF := by decide

/-! ### The engine, the step and the placing of a word -/

/-- Part 7: the 24th engine step raises HT. -/
theorem test_engine_raises_ht : after (engineStep (red3Sending 3 23 .streaming none)) (fun t => (t.rp, t.pend)) =
    some (24, some .ht) := by decide
/-- Part 7: the 48th engine step wraps and raises TC. -/
theorem test_engine_wraps : after (engineStep (red3Sending 6 47 .streaming none)) (fun t => (t.rp, t.pend)) =
    some (0, some .tc) := by decide
/-- 30_encoding.md R89: a zero entry is low throughout, an entry 25 is high for 25 counts. -/
theorem test_entry_level : (entryHigh 0 0, entryHigh 25 24, entryHigh 25 25) = (false, true, false) := by decide
/-- 43_transfer_controller.md R177 (f): HT is delivered between two byte writes of SETPIX 0, which then goes on. -/
theorem test_event_between_two_stores :
    let s : State := { red3Sending 3 24 .streaming (some .ht) with
      prog := [0x04000000010203], turns := [.access], todo := [.storeScaled 0 2, .storeScaled 2 3] }
    after (step s) (fun t => (t.outIndex, t.todo, t.turns, t.prog)) =
      some (6, s.todo, [.access], [0x04000000010203]) := by decide
/-- One access of SETPIX: one byte of the record is new. -/
theorem test_one_store :
    after (step { red3 with todo := [.storeScaled 0 2, .storeScaled 2 3], turns := [.access] })
      (fun t => (fbList t, t.todo)) = some ([2, 255, 0, 0, 0, 0, 0, 0, 0], [.storeScaled 2 3]) := by decide
/-- 42_scheduler.md R144: the phase is Priming inside start. -/
theorem test_priming : after (step { red3 with todo := [.enterPriming, .zeroEntry 0], turns := [.access] })
    (fun t => t.phase) = some .priming := by decide
/-- P5 step 3, access by access: the four accesses of GETPIX 0. -/
theorem test_getpix_by_access :
    let s := strip .rgb 1 64 [50, 25, 13]
    (accessesOf (.getPix 0) s).map (fun l => (s.performAll l).returned) = some [0x00C86434] := by decide
/-- P1 step 3, access by access: what start leaves in the DMA buffer. -/
theorem test_show_by_access : (accessesOf .showCmd red3).map (fun l =>
    let t := red3.performAll l
    (dmaList t, t.outIndex, t.phase, t.hwRun)) = some (run 24 0 ++ run 8 25 ++ run 8 50 ++ run 8 25, 3, .streaming, true) := by
  decide
theorem test_fetch_command : after (step (State.reset.withFetchWord 56 0x06000000000080)) (fun t => t.brightness) =
    some 128 := by decide
theorem test_fetch_event : after (step (State.reset.withFetchWord 56 0x11000000000001)) (fun t => (t.phase, t.hwRun)) =
    some (.idle, false) := by decide
theorem test_fetch_reserved : step (State.reset.withFetchWord 56 0x07000000000000) = .refused (.reservedOp 0x07) :=
  rfl

/-! ### Witnesses: concrete states and operands that meet the hypotheses of the statements, clause by clause -/

/-- With no command in progress the command in progress is in order. -/
theorem command_nil {s : State} (h : s.todo = []) : s.CommandInOrder := .inl fun a ha => (by rw [h] at ha; cases ha)

/-- `red3` has the invariant. -/
theorem red3_inv : red3.Inv :=
  ⟨by decide, by decide, by decide, by decide, by decide, fun _ => ⟨.inl (by decide), by decide⟩, by decide, by decide,
    by decide, by decide, fun h => absurd h (by decide), command_nil rfl, by decide⟩

/-- A transfer of `red3` in flight, right after the engine raised HT, has the invariant. -/
theorem red3Sending_ht_inv : (red3Sending 3 24 .streaming (some .ht)).Inv :=
  ⟨by decide, by decide, by decide, by decide, by decide, fun _ => ⟨.inr (.inl (by decide)), by decide⟩, by decide,
    by decide, by decide, by decide,
    fun _ => ⟨by decide, by decide, fun _ => ⟨by decide, .inr (by decide)⟩, fun h => absurd h (by decide)⟩,
    command_nil rfl, by decide⟩

/-- A transfer of `red3` in flight, the fourth event due, has the invariant. -/
theorem red3Sending_tc_inv : (red3Sending 12 0 .draining (some .tc)).Inv :=
  ⟨by decide, by decide, by decide, by decide, by decide, fun _ => ⟨.inr (.inr (.inl (by decide))), by decide⟩, by decide,
    by decide, by decide, by decide,
    fun _ => ⟨by decide, by decide, fun h => absurd h (by decide), fun _ => ⟨by decide, .inr (by decide)⟩⟩,
    command_nil rfl, by decide⟩

/-- A transfer of `red3` in flight, between two events, has the invariant, whatever the program and the schedule. -/
theorem red3Sending_inv (p : List CmdWord) (ts : List Turn) :
    ({ red3Sending 6 29 .streaming none with prog := p, turns := ts } : State).Inv :=
  have h : (red3Sending 6 29 .streaming none).Inv :=
    ⟨by decide, by decide, by decide, by decide, by decide, fun _ => ⟨.inr (.inl (by decide)), by decide⟩, by decide,
      by decide, by decide, by decide,
      fun _ => ⟨by decide, by decide, fun h => absurd h (by decide), fun _ => ⟨by decide, .inl (by decide)⟩⟩,
      command_nil rfl, by decide⟩
  (h.withProg rfl p).withTurns ts

/-- Start before its last access has the invariant. -/
theorem red3Arming_inv (ts : List Turn) : (red3Arming ts).Inv :=
  have h : (red3Arming []).Inv :=
    ⟨by decide, by decide, by decide, by decide, by decide, fun h => absurd h (by decide), by decide, by decide,
      by decide, by decide, fun h => absurd h (by decide),
      .inr ⟨[], rfl, ⟨by decide, by decide, rfl, rfl, fun _ h => (by cases h), rfl, rfl, by decide, rfl⟩⟩, by decide⟩
  h.withTurns ts

theorem wit_DecodedWordIsUnique : decode 0x11000000000001 = .ok .err := by decide

theorem wit_WordDecodesIffWellFormed : (cmdFields 0x12000000000000).op.toNat ∉
    [0x01, 0x02, 0x03, 0x04, 0x05, 0x06, 0x10, 0x11] := by decide

theorem wit_StepRunsCurrentCommand :
    let s : State := { red3 with prog := [0x02000000000000], turns := [.foreground] }
    s.dueEvent = none ∧ s.turns = .foreground :: [] ∧ s.todo = [] ∧ s.prog = 0x02000000000000 :: [] ∧
      decode 0x02000000000000 = .ok .clearCmd ∧ Instr.clearCmd.wfIn .foreground = true := by decide

theorem wit_StepDeliversPendingEvent :
    let s := red3Sending 3 24 .streaming (some .ht)
    let u : State := { s with turns := [.jointError] }
    (s.irqEn = true ∧ s.pend = some .ht ∧ s.turns.head? ≠ some .jointError) ∧
    (u.irqEn = true ∧ u.pend = some .ht ∧ u.turns.head? = some .jointError) := by decide

theorem wit_StepOfOtherTurns :
    let s := red3Sending 3 5 .streaming none
    (red3Arming [.engine]).dueEvent = none ∧ ({ s with turns := [.jointError] } : State).dueEvent = none ∧
    (s.dueEvent = none ∧ s.turns = []) ∧
    ({ s with turns := [.engine] } : State).dueEvent = none ∧ ({ s with turns := [.hwError] } : State).dueEvent = none ∧
    (({ s with turns := [.foreground] } : State).dueEvent = none ∧
      ({ s with turns := [.access] } : State).dueEvent = none ∧ s.todo = [] ∧ s.prog = []) := by decide

theorem wit_StepRefusesMeaninglessWord :
    let s (x : Turn) (w : CmdWord) : State := { red3 with prog := [w], turns := [x] }
    ∀ x ∈ [Turn.foreground, .access],
      ((s x 0x12000000000000).dueEvent = none ∧ decode 0x12000000000000 = .error (.reservedOp 0x12)) ∧
      ((s x 0x11000000000002).dueEvent = none ∧ decode 0x11000000000002 = .error (.reservedField 0x11)) ∧
      ((s x 0x10000000000000).dueEvent = none ∧ decode 0x10000000000000 = .ok Event.ht.instr) ∧
      red3.todo = [] := by decide

/-- Both clauses of the three statements on brightness, at the ends of their ranges (part 2). -/
theorem wit_brightness :
    applyBrightness 255 0 = 255 ∧ (applyBrightness 255 255 = 254 ∧ (255 : Byte) ≠ 0) ∧
    reverseBrightness 255 0 = 255 ∧ (reverseBrightness 1 1 = 255 ∧ (1 : Byte) ≠ 0) ∧
    applyBrightness 128 255 = 128 ∧ applyBrightness 129 255 = 128 ∧ (254 : Byte).toNat ≤ (255 : Byte).toNat := by decide

theorem wit_ChannelAddressInFrameBuffer : chanOff red3.layout .b = some 2 ∧ 2 < red3.n.toNat := by decide

theorem wit_LayoutOffsetsArePermutation : Layout.ofCode? 11 = some .wbgr ∧ 11 < 12 ∧ Layout.ofCode? 12 = none := by
  decide

theorem wit_EncodeByteInjective : red3.zeroDuty ≠ red3.oneDuty ∧ red3.encodeByte 0 = red3.encodeByte 0 := by decide

/-- The cursor of the statements on fillUnit is aligned at both kinds of unit: the last pixel and the first gap. -/
theorem wit_FillUnitEncodesTheUnit :
    let s := red3Sending 6 0 .streaming (some .tc)
    let u := red3Sending 9 24 .streaming (some .ht)
    (s.outIndex.toNat % s.bpp = 0 ∧ s.outIndex.toNat < s.n.toNat * s.bpp) ∧
    (u.outIndex.toNat % u.bpp = 0 ∧ s.n.toNat * u.bpp ≤ u.outIndex.toNat) := by decide

theorem wit_HtRefillsFirstHalf :
    let s := red3Sending 9 24 .streaming (some .ht)
    (s.irqEn = true ∧ s.pend = some .ht ∧ s.outIndex.toNat % s.bpp = 0) ∧ red3.irqEn = false := by decide

/-- TC completes at exactly (N + 2) * bpp and not one unit before. -/
theorem wit_TcRefillsSecondHalfOrCompletes :
    let s := red3Sending 12 0 .draining (some .tc)
    let u := red3Sending 6 0 .streaming (some .tc)
    (s.irqEn = true ∧ s.pend = some .tc ∧ s.outIndex.toNat % s.bpp = 0 ∧
      (s.n.toNat + 2) * s.bpp = (s.outIndex + BitVec.ofNat 32 s.bpp).toNat) ∧
    (u.irqEn = true ∧ u.pend = some .tc ∧ u.outIndex.toNat % u.bpp = 0 ∧
      (u.outIndex + BitVec.ofNat 32 u.bpp).toNat < (u.n.toNat + 2) * u.bpp) ∧ red3.irqEn = false := by decide

theorem wit_ErrAbortsInPlace :
    let s := red3Sending 12 0 .draining (some .tc)
    (s.irqEn = true ∧ s.pend ≠ none) ∧ red3.irqEn = false ∧ (red3Sending 3 5 .streaming none).pend = none := by decide

theorem wit_DisabledEventIsRefused :
    (red3.irqEn = false ∧ Event.tc ≠ .err ∧ (red3Sending 3 24 .streaming (some .ht)).pend ≠ some .tc) ∧
      (red3Arming []).pend = none ∧ ((red3Arming []).Inv ∧ (red3Arming []).inStart = true) ∧
      red3.Inv ∧ red3.phase = .idle :=
  ⟨by decide, rfl, ⟨red3Arming_inv [], by decide⟩, red3_inv, rfl⟩

theorem wit_AbortTestTellsAbortFromCompletion :
    (∃ t, exec .err (red3Sending 6 29 .streaming (some .err)) = .next t) ∧
    ∃ t, exec .tc (red3Sending 12 0 .draining (some .tc)) = .next t ∧ t.phase = .complete := ⟨⟨_, rfl⟩, _, rfl, rfl⟩

theorem wit_ShowStartsTransfer : red3.n ≠ 0 ∧ red3.ready = true := by decide

theorem wit_ShowOnEmptyStripDoesNothing : (strip .grb 0 0 []).n = 0 := by decide

theorem wit_ClearZeroesFrameBuffer : red3.ready = true ∧ 8 < red3.n.toNat * red3.bpp ∧ red3.n.toNat * red3.bpp ≤ 9 := by
  decide

theorem wit_WaitReturnsWhenReady : red3.ready = true ∧ (red3Sending 3 0 .streaming none).ready = false := by decide

/-- SETPIX of the last pixel: on an idle strip, and in flight with the cursor just past it; one pixel further is out of
range. -/
theorem wit_SetPixStoresRecord :
    let s := red3Sending 9 24 .streaming none
    ((2 : BitVec 16).toNat < red3.n.toNat ∧ red3.ready = true) ∧
    ((2 : BitVec 16).toNat < s.n.toNat ∧ ((2 : BitVec 16).toNat + 1) * s.bpp ≤ s.outIndex.toNat) ∧
    (∃ a, s.chanAddr 2 .r = some a) ∧ (∀ c, s.chanAddr 2 c ≠ some 5) :=
  ⟨by decide, by decide, ⟨7, by decide⟩, fun c => by cases c <;> decide⟩

theorem wit_SetPixOutOfRangeIsSilent : red3.n.toNat ≤ (3 : BitVec 16).toNat := by decide

theorem wit_GetPixReturnsColour :
    (2 : BitVec 16).toNat < red3.n.toNat ∧ red3.n.toNat ≤ (3 : BitVec 16).toNat ∧ red3.bpp = 3 ∧
      (strip .wrgb 1 0 []).bpp = 4 := by decide

theorem wit_SetBriRescalesEveryByte :
    (255 : BitVec 32).toNat = (255 : Byte).toNat ∧ (255 : Byte) ≠ red3.brightness ∧ red3.ready = true := by decide

theorem wit_SetBriIgnoredOrEqual :
    255 < (256 : BitVec 32).toNat ∧ (0 : BitVec 32).toNat = red3.brightness.toNat := by decide

theorem wit_BusyCommandsAreHeld :
    let s := red3Sending 3 0 .streaming none
    s.ready = false ∧ s.n ≠ 0 ∧ (255 : BitVec 32).toNat ≤ 255 ∧ (255 : BitVec 32).toNat ≠ s.brightness.toNat ∧
      (1 : BitVec 16).toNat < s.n.toNat ∧ s.outIndex.toNat < ((1 : BitVec 16).toNat + 1) * s.bpp := by decide

theorem wit_SetThenGetReturnsTheColour :
    red3.brightness = 0 ∧ (2 : BitVec 16).toNat < red3.n.toNat ∧ red3.ready = true := by decide

theorem wit_ClearThenGetReturnsZero : red3.ready = true := by decide

/-- An engine step inside a half, at H - 1 and at L - 1; and with the engine stopped or an event pending. -/
theorem wit_EngineStepPutsOutOneEntry :
    (∀ r ∈ [0, 23, 47], let s := red3Sending 3 r .streaming none
      s.hwRun = true ∧ s.pend = none ∧ s.rp.toNat < 16 * s.bpp) ∧
    red3.hwRun = false ∧ (red3Sending 3 24 .streaming (some .ht)).pend ≠ none := by decide

theorem wit_ErrorIsRaisedOnlyWhileRunning :
    let s := red3Sending 3 5 .streaming none
    (s.hwRun = true ∧ s.irqEn = true ∧ s.pend = none) ∧
      ¬(red3.hwRun = true ∧ red3.irqEn = true ∧ red3.pend = none) := by decide

theorem wit_OutputLineLevel : (red3Sending 3 47 .streaming none).hwRun = true ∧ red3.hwRun = false := by decide

/-- A step that puts an entry out, and one that does not. -/
theorem wit_OnlyTheEngineWritesTheWire :
    (∃ t, step { red3Sending 3 5 .streaming none with turns := [.engine] } = .next t) ∧ ∃ t, step red3 = .next t :=
  ⟨⟨_, rfl⟩, _, rfl⟩

theorem wit_ConstructGivesResetValues : (11 ≤ 11) ∧ 11 < 12 ∧ ∃ s, construct ⟨8, false, 11, 25, 50, 0⟩ = .next s :=
  ⟨by decide, by decide, _, rfl⟩

theorem wit_ConstructedStripMeetsInvariant : ∃ s, construct ⟨65535, true, 9, 1, 2, 7⟩ = .next s := ⟨_, rfl⟩

/-- Steps of the invariant: a delivered event, and a foreground command in flight. -/
theorem wit_StepKeepsInvariant :
    (∃ s t : State, s.Inv ∧ step s = .next t ∧ s.hwRun = true ∧ t.hwRun = false) ∧
    ∃ s t : State, s.Inv ∧ step s = .next t ∧ t.prog = [] ∧ s.prog = [0x040000000000FF] :=
  ⟨⟨_, _, red3Sending_tc_inv, rfl, rfl, rfl⟩,
    _, _, red3Sending_inv [0x040000000000FF] [.foreground], rfl, rfl, rfl⟩

theorem wit_NothingFaultsUnderInvariant : ∃ s : State, s.Inv ∧ step s = .refused .wrongContext :=
  ⟨_, red3Sending_inv [0x10000000000000] [.foreground], rfl⟩

theorem wit_ConfigurationIsFixed : ∃ t, step (red3Sending 12 0 .draining (some .tc)) = .next t := ⟨_, rfl⟩

theorem wit_InterruptContextWrites : ∃ t, exec Event.ht.instr (red3Sending 3 24 .streaming (some .ht)) = .next t :=
  ⟨_, rfl⟩

theorem wit_ForegroundContextWrites :
    Instr.clearCmd.context = .foreground ∧ Instr.clearCmd ≠ .showCmd ∧ ∃ t, exec .clearCmd red3 = .next t :=
  ⟨rfl, by decide, _, rfl⟩

/-- The engine started, stopped, and left alone. -/
theorem wit_EngineStartsOnlyWhileStopped :
    (∃ t, exec .showCmd red3 = .next t) ∧ red3.Inv ∧
    (∃ t, step (red3Sending 12 0 .draining (some .tc)) = .next t) ∧ (red3Sending 12 0 .draining (some .tc)).Inv ∧
    ∃ t, step red3 = .next t :=
  ⟨⟨_, rfl⟩, red3_inv, ⟨_, rfl⟩, red3Sending_tc_inv, _, rfl⟩

/-- A wait that is over stays over: the full wait with a SHOW only begun, the cursor wait of pixel 1 at its boundary, and
a held SHOW. -/
theorem wit_WaitConditionsLast :
    (∃ s t : State, s.Inv ∧ step s = .next t ∧ ¬s.startsNow ∧ s.ready = true ∧ t.inStart = true) ∧
    (∃ s t : State, s.Inv ∧ step s = .next t ∧ ¬s.startsNow ∧ s.ready = false ∧
      s.cursorWaitDone 1 = true ∧ s.cursorWaitDone 2 = false) ∧
    ∃ s t : State, s.Inv ∧ step s = .next t ∧ ¬s.startsNow ∧ s.ready = false ∧ s.prog = [0x01000000000000] :=
  ⟨⟨_, _, (red3_inv.withProg rfl [0x01000000000000]).withTurns [.access], rfl,
      fun h => by rcases h.2 with ⟨h, _⟩ | ⟨_, h⟩ <;> exact absurd h (by decide), rfl, by decide⟩,
    ⟨_, _, red3Sending_inv [] [], rfl,
      fun h => by rcases h.2 with ⟨h, _⟩ | ⟨_, h⟩ <;> exact absurd h (by decide), rfl, by decide, by decide⟩,
    _, _, red3Sending_inv [0x01000000000000] [.foreground], rfl,
      fun h => by rcases h.2 with ⟨_, _, _, h, _⟩ | ⟨_, h⟩ <;> exact absurd h (by decide), rfl, rfl⟩

/-- SETPIX 0 in flight: the byte before the cursor changes, the one at the cursor does not. -/
theorem wit_FrameInFlightIsProtected :
    ∃ s t : State, s.Inv ∧ s.ready = false ∧ step s = .next t ∧ t.fbRead 2 ≠ s.fbRead 2 ∧ s.outIndex.toNat ≤ 6 :=
  ⟨_, _, red3Sending_inv [0x040000000000FF] [.foreground], rfl, rfl, by decide, by decide⟩

theorem wit_HandlerSparesTheHalfBeingRead :
    (∃ s t : State, s.Inv ∧ s.dueEvent = some .ht ∧ step s = .next t ∧ (s.rp.toNat < 8 * s.bpp ↔ 24 < 8 * s.bpp)) ∧
    ∃ s t : State, s.Inv ∧ s.dueEvent = some .tc ∧ step s = .next t ∧ (s.rp.toNat < 8 * s.bpp ↔ 23 < 8 * s.bpp) :=
  ⟨⟨_, _, red3Sending_ht_inv, by decide, rfl, by decide⟩, _, _, red3Sending_tc_inv, by decide, rfl, by decide⟩

theorem wit_HandlerCommutesWithEarlierStore :
    let s := red3Sending 3 24 .streaming (some .ht)
    Access.AllowedIn s (.storeScaled 2 7) ∧ Access.AllowedIn s (.loadFb 8) ∧ s.ready = false ∧
      2 < s.outIndex.toNat ∧ ∃ t, exec Event.ht.instr s = .next t :=
  ⟨⟨by decide, .inr (by decide)⟩, show 8 < 9 by decide, rfl, by decide, _, rfl⟩

/-- A stalled engine, with a WAIT, then with a SETPIX 2 held access by access. -/
theorem wit_StalledEngineNeverReady :
    ∃ s t : State, s.Inv ∧ s.inStart = false ∧ s.ready = false ∧ s.pend = none ∧
      (∀ x ∈ s.turns, x = .foreground ∨ x = .access) ∧ s.turns.length = 2 ∧ s.cursorWaitDone 2 = false ∧
      Host.Core.run Sys2Proof.core 2 s = .next t :=
  ⟨_, _, red3Sending_inv [0x040002000000BB] [.foreground, .access], by decide, rfl, rfl, by decide, rfl, by decide, rfl⟩

/-- The two statements on whole transfers share their hypotheses: SHOW of `red3`, a SETPIX 2 that waits and a SETPIX 0 that
does not, and 1 or all K(3) = 4 halves. -/
theorem wit_EventsAdvanceTheCursor :
    ∃ t, red3.Inv ∧ red3.todo = [] ∧ red3.ready = true ∧ red3.n ≠ 0 ∧ exec .showCmd red3 = .next t ∧
      (∀ x ∈ .foreground :: .access :: List.replicate 24 Turn.engine, x ≠ .hwError ∧ x ≠ .jointError) ∧
      (∀ w ∈ [(0x040000000000FF : CmdWord), 0x040002000000BB],
        ∃ i, decode w = .ok i ∧ i.context = .foreground ∧ i ≠ .showCmd) ∧
      1 < completionEvent red3.n.toNat ∧
      (.foreground :: .access :: List.replicate 24 Turn.engine).count .engine = 1 * red3.halfLen :=
  ⟨_, red3_inv, rfl, rfl, by decide, rfl, by decide,
    fun w hw => by
      rcases List.mem_cons.mp hw with rfl | hw
      · exact ⟨.setPix 0 0xFF, by decide⟩
      · rw [List.mem_singleton.mp hw]; exact ⟨.setPix 2 0xBB, by decide⟩,
    by decide, by decide⟩

theorem wit_TransferSendsTheFrame :
    ∃ t, red3.Inv ∧ red3.todo = [] ∧ red3.ready = true ∧ red3.n ≠ 0 ∧ exec .showCmd red3 = .next t ∧
      (∀ x ∈ .access :: List.replicate 96 Turn.engine, x ≠ .hwError ∧ x ≠ .jointError) ∧
      (∀ w ∈ [(0x03000000000000 : CmdWord)], ∃ i, decode w = .ok i ∧ i.context = .foreground ∧ i ≠ .showCmd) ∧
      (.access :: List.replicate 96 Turn.engine).count .engine = completionEvent red3.n.toNat * red3.halfLen :=
  ⟨_, red3_inv, rfl, rfl, by decide, rfl, by decide,
    fun w hw => by rw [List.mem_singleton.mp hw]; exact ⟨.waitCmd, by decide⟩, by decide⟩

/-- One access left, two left, a command to begin, and a rest to finish. -/
theorem wit_StepMakesOneAccess :
    let s (l : List Access) (x : Turn) : State :=
      { red3 with todo := l, turns := [x], prog := [0x02000000000000] }
    (∀ l ∈ [[], [Access.storeFb 8 0], [.storeFb 7 0, .storeFb 8 0]], (s l .access).dueEvent = none) ∧
      (s [.storeFb 8 0] .foreground).dueEvent = none ∧ decode 0x02000000000000 = .ok .clearCmd ∧
      Instr.clearCmd.context = .foreground := by decide

/-- A command that is held, one without accesses, and one with. -/
theorem wit_CommandIsItsAccesses :
    accessesOf .waitCmd (red3Sending 3 0 .streaming none) = none ∧ accessesOf .waitCmd red3 = some [] ∧
      accessesOf (.setPix 2 0x00010203) red3 = some [.storeScaled 7 1, .storeScaled 6 2, .storeScaled 8 3] ∧
      red3.todo = [] ∧ red3.loaded = [] ∧ red3.pend = none := by decide

/-- Runs that end outside start after a delivered event, inside start, after its last access, and stopped; and a step that
changes the phase. -/
theorem wit_ObservableRowsHold :
    (∃ s t : State, s.Inv ∧ Host.Core.run Sys2Proof.core 1 s = .next t ∧ t.inStart = false ∧ t.hwRun = true) ∧
    (∃ s t : State, s.Inv ∧ Host.Core.run Sys2Proof.core 1 s = .next t ∧ t.inStart = true) ∧
    (∃ s t : State, s.Inv ∧ Host.Core.run Sys2Proof.core 0 s = .next t ∧ t.phase = .priming) ∧
    (∃ s t : State, s.Inv ∧ Host.Core.run Sys2Proof.core 1 s = .next t ∧ s.inStart = true ∧ t.inStart = false) ∧
    (∃ s t : State, s.Inv ∧ Host.Core.run Sys2Proof.core 1 s = .next t ∧ t.hwRun = false) ∧
    ∃ s u : State, s.Inv ∧ Host.Core.run Sys2Proof.core 0 s = .next s ∧ step s = .next u ∧ u.phase ≠ s.phase :=
  ⟨⟨_, _, red3Sending_ht_inv, rfl, by decide, rfl⟩,
    ⟨_, _, (red3_inv.withProg rfl [0x01000000000000]).withTurns [.access], rfl, by decide⟩,
    ⟨_, _, red3Arming_inv [], rfl, rfl⟩, ⟨_, _, red3Arming_inv [.access], rfl, by decide, by decide⟩,
    ⟨_, _, red3Sending_tc_inv, rfl, rfl⟩, _, _, red3Sending_tc_inv, rfl, rfl, by decide⟩

end Sys2Proof.Tests
end

section
/-! PROOFS. The family 20_memory.md: where the channels of a pixel lie. -/

namespace Sys2Proof.Machine

/-- The address formula addr(n, C) = n * bpp + off(C) (20_memory.md R51). -/
theorem chanAddr_eq_some {s : State} {c : Channel} {o : Nat} (ho : chanOff s.layout c = some o) (p : Nat) :
    s.chanAddr p c = some (p * s.bpp + o) := by
  simp [State.chanAddr, ho]

/-- Settles O15: the formula for the address, `chanOff_lt` for the offset and `chanAddr_lt` for the range. -/
theorem channelAddressInFrameBuffer : Obligations.ChannelAddressInFrameBuffer := by
  intro s p c o ho
  have haddr : s.chanAddr p c = some (p * s.bpp + o) := chanAddr_eq_some ho p
  exact ⟨haddr, chanOff_lt s.layout c o ho, fun hp => chanAddr_lt haddr hp⟩

end Sys2Proof.Machine
end

section
/-! PROOFS. The family 40_color_model.md: ColorWords and the brightness functions. -/

namespace Sys2Proof.Machine

/-! ### ColorWords: each component as a digit to the base 256, and pack as their weighted sum -/

/-- The most significant byte needs no reduction: a ColorWord is below 2 ^ 32 (30_encoding.md R81). -/
theorem channelOf_w_toNat (c : ColorWord) : (channelOf c .w).toNat = c.toNat / 2 ^ 24 := by
  have hc : c.toNat < 2 ^ 32 := c.isLt
  rw [channelOf, BitVec.extractLsb'_toNat, Nat.shiftRight_eq_div_pow]
  omega

theorem channelOf_r_toNat (c : ColorWord) : (channelOf c .r).toNat = c.toNat / 2 ^ 16 % 2 ^ 8 := by
  rw [channelOf, BitVec.extractLsb'_toNat, Nat.shiftRight_eq_div_pow]

theorem channelOf_g_toNat (c : ColorWord) : (channelOf c .g).toNat = c.toNat / 2 ^ 8 % 2 ^ 8 := by
  rw [channelOf, BitVec.extractLsb'_toNat, Nat.shiftRight_eq_div_pow]

theorem channelOf_b_toNat (c : ColorWord) : (channelOf c .b).toNat = c.toNat % 2 ^ 8 := by
  rw [channelOf, BitVec.extractLsb'_toNat, Nat.shiftRight_zero]

/-- The weighted sum of four bytes fits 32 bits, so `BitVec.ofNat` drops nothing of it (40_color_model.md R110). -/
theorem pack_toNat (w r g b : Byte) :
    (pack w r g b).toNat = w.toNat * 2 ^ 24 + r.toNat * 2 ^ 16 + g.toNat * 2 ^ 8 + b.toNat := by
  have hfits : w.toNat * 2 ^ 24 + r.toNat * 2 ^ 16 + g.toNat * 2 ^ 8 + b.toNat < 2 ^ 32 := by
    have hw := w.isLt; have hr := r.isLt; have hg := g.isLt; have hb := b.isLt
    omega
  rw [pack, BitVec.toNat_ofNat, Nat.mod_eq_of_lt hfits]

/-- unpack after pack: the digits of the weighted sum are the four bytes (40_color_model.md R111). -/
theorem channelOf_pack (w r g b : Byte) :
    channelOf (pack w r g b) .w = w ∧ channelOf (pack w r g b) .r = r ∧
      channelOf (pack w r g b) .g = g ∧ channelOf (pack w r g b) .b = b := by
  have hr := r.isLt; have hg := g.isLt; have hb := b.isLt
  refine ⟨BitVec.eq_of_toNat_eq ?_, BitVec.eq_of_toNat_eq ?_, BitVec.eq_of_toNat_eq ?_, BitVec.eq_of_toNat_eq ?_⟩
  · rw [channelOf_w_toNat, pack_toNat]; omega
  · rw [channelOf_r_toNat, pack_toNat]; omega
  · rw [channelOf_g_toNat, pack_toNat]; omega
  · rw [channelOf_b_toNat, pack_toNat]; omega

/-- pack after unpack: a word is the weighted sum of its digits (40_color_model.md R111). -/
@[simp] theorem pack_channelOf (c : ColorWord) :
    pack (channelOf c .w) (channelOf c .r) (channelOf c .g) (channelOf c .b) = c := by
  apply BitVec.eq_of_toNat_eq
  rw [pack_toNat, channelOf_w_toNat, channelOf_r_toNat, channelOf_g_toNat, channelOf_b_toNat]
  omega

/-- Settles O9: the components are the digits of the word, and both inverses follow from `pack_toNat`. -/
theorem unpackInvertsPack : Obligations.UnpackInvertsPack :=
  ⟨fun c => ⟨channelOf_w_toNat c, channelOf_r_toNat c, channelOf_g_toNat c, channelOf_b_toNat c⟩,
    channelOf_pack, pack_channelOf⟩

/-! ### applyBrightness -/

/-- Brightness 0 is the sentinel for raw values (40_color_model.md R112). -/
@[simp] theorem applyBrightness_zero (v : Byte) : applyBrightness v 0 = v := if_pos rfl

/-- The greatest rounded product, 255 * 255 + 128 (40_color_model.md R121). -/
theorem roundedProduct_le (v b : Byte) : v.toNat * b.toNat + 128 ≤ 65153 := by
  have hprod : v.toNat * b.toNat ≤ 255 * 255 :=
    Nat.mul_le_mul (Nat.le_of_lt_succ v.isLt) (Nat.le_of_lt_succ b.isLt)
  omega

/-- The scaled value is at most 254, so narrowing it to a byte drops nothing (40_color_model.md R112, R113). -/
theorem applyBrightness_toNat (v : Byte) {b : Byte} (hb : b ≠ 0) :
    (applyBrightness v b).toNat = (v.toNat * b.toNat + 128) / 2 ^ 8 := by
  have hfits : (v.toNat * b.toNat + 128) / 2 ^ 8 < 2 ^ 8 := by
    have hle := roundedProduct_le v b
    omega
  rw [applyBrightness, if_neg hb, BitVec.toNat_ofNat]
  exact Nat.mod_eq_of_lt hfits

/-- Settles O11: the two branches of R112, and the bound that makes the second exact. -/
theorem applyBrightnessRoundsToNearest : Obligations.ApplyBrightnessRoundsToNearest := by
  intro v b
  constructor
  · rintro rfl
    exact applyBrightness_zero v
  · intro hb
    exact ⟨roundedProduct_le v b, applyBrightness_toNat v hb⟩

end Sys2Proof.Machine
end

section
/-! PROOFS. The family 41_bitstream_encoder.md: what a byte is encoded to and what refills one half. -/

namespace Sys2Proof.Machine

/-! ### One byte -/

/-- Entry k is the duty of bit 7 - k, most significant bit first (41_bitstream_encoder.md R132). -/
theorem encodeByte_getElem? (s : State) (x : Byte) {k : Nat} (hk : k < 8) :
    (s.encodeByte x)[k]? = some (s.lut (x.getLsbD (7 - k))) := by
  rw [State.encodeByte, List.getElem?_map, List.getElem?_range hk, Option.map_some]

/-- The duty table has two rows (41_bitstream_encoder.md R130). -/
theorem lut_eq_zeroDuty_or_oneDuty (s : State) (bit : Bool) : s.lut bit = s.zeroDuty ∨ s.lut bit = s.oneDuty := by
  cases bit with
  | false => exact .inl rfl
  | true => exact .inr rfl

/-- An encoded byte holds nothing but the duties of bits. -/
theorem exists_lut_of_mem_encodeByte {s : State} {x : Byte} {d : Duty} (hd : d ∈ s.encodeByte x) :
    ∃ bit, s.lut bit = d := by
  obtain ⟨k, -, hk⟩ := List.mem_map.mp hd
  exact ⟨x.getLsbD (7 - k), hk⟩

/-- Settles O17: the length, the entry at each index, and the two rows of the duty table. -/
theorem encodeByteMsbFirst : Obligations.EncodeByteMsbFirst := by
  intro s x
  refine ⟨encodeByte_length s x, fun k hk => encodeByte_getElem? s x hk, fun d hd => ?_⟩
  obtain ⟨bit, rfl⟩ := exists_lut_of_mem_encodeByte hd
  exact lut_eq_zeroDuty_or_oneDuty s bit

/-! ### One half -/

/-- Filling a half with H entries leaves the rest of the DMA buffer alone (20_memory.md R54). -/
theorem outsideHalfSame_fillHalf (s : State) (h : Half) {ds : List Duty} (hl : ds.length = s.halfLen) :
    OutsideHalfSame s (s.fillHalf h ds) h := fun e he => by
  rw [dmaRead_fillHalf, hl, if_neg he]

/-- Inside its half zeroHalf leaves the numeric 0, which is not ZERO_DUTY (41_bitstream_encoder.md R134). -/
theorem dmaRead_zeroHalf (s : State) (h : Half) {e : Nat} (he : e < s.halfLen) :
    (s.zeroHalf h).dmaRead (s.halfBase h + e) = 0 := by
  have hin : s.halfBase h ≤ s.halfBase h + e ∧ s.halfBase h + e < s.halfBase h + s.halfLen := by omega
  rw [State.zeroHalf, dmaRead_fillHalf, List.length_replicate, if_pos hin, Nat.add_sub_cancel_left,
    List.getElem?_replicate_of_lt he, Option.getD_some]

/-- Settles O19: zeroHalf is a fill of its half with H zeros, and a fill sets the DMA buffer only. -/
theorem zeroHalfWritesZeroEntries : Obligations.ZeroHalfWritesZeroEntries := fun s h =>
  ⟨rfl, fun _ he => dmaRead_zeroHalf s h he, outsideHalfSame_fillHalf s h List.length_replicate⟩

/-- Settles O20: an aligned cursor makes no fault (`fillUnit_of_aligned`), so the answer is the fill of the half from
the cursor, and `holdsUnit_of_fillHalf` says what that half then holds. -/
theorem fillUnitEncodesTheUnit : Obligations.FillUnitEncodesTheUnit := by
  intro s h haligned
  have hanswer := fillUnit_of_aligned s h haligned
  exact ⟨_, hanswer, fillUnit_frame hanswer, holdsUnit_of_fillHalf rfl rfl⟩

end Sys2Proof.Machine
end

section
/-! PROOFS. The family 30_encoding.md: the command word and its decoder. -/

namespace Sys2Proof

/-! ### The word and its three fields (30_encoding.md R92) -/

/-- The fields are read back from the word they make, bit by bit. -/
theorem cmdFields_cmdWord (f : CmdFields) : cmdFields (cmdWord f) = f := by
  obtain ⟨op, n, data⟩ := f
  simp only [cmdFields, cmdWord, CmdFields.mk.injEq]
  refine ⟨?_, ?_, ?_⟩ <;> apply BitVec.eq_of_getLsbD_eq <;> intro i hi <;>
    simp only [BitVec.getLsbD_extractLsb', BitVec.getLsbD_append] <;> grind

/-- A word is made of its fields, bit by bit. -/
theorem cmdWord_cmdFields (w : CmdWord) : cmdWord (cmdFields w) = w := by
  apply BitVec.eq_of_getLsbD_eq
  intro i hi
  simp only [cmdFields, cmdWord, BitVec.getLsbD_extractLsb', BitVec.getLsbD_append]
  grind

/-! ### The decoder, row by row of the opcode map (30_encoding.md R94, R95) -/

theorem acceptIf_eq_ok_iff {ok : Bool} {op : BitVec 8} {i j : Instr} :
    acceptIf ok op i = .ok j ↔ ok = true ∧ i = j := by
  cases ok <;> simp [acceptIf]

/-- The fields of an instruction decode to it. -/
theorem decodeFields_instrFields (i : Instr) : decodeFields (instrFields i) = .ok i := by
  cases i <;> rfl

theorem eq_ofNat_of_toNat_eq {op : BitVec 8} {k : Nat} (h : op.toNat = k) : op = BitVec.ofNat 8 k := by
  rw [← h, BitVec.ofNat_toNat, BitVec.setWidth_eq]

/-- Fields that decode are those of the instruction of their row. -/
theorem instrFields_of_decodeFields {f : CmdFields} {i : Instr} (h : decodeFields f = .ok i) : instrFields i = f := by
  obtain ⟨op, n, data⟩ := f
  unfold decodeFields at h
  split at h
  case h_4 hop =>
    cases h
    obtain rfl : op = _ := eq_ofNat_of_toNat_eq hop
    rfl
  case h_8 hop =>
    obtain rfl : op = _ := eq_ofNat_of_toNat_eq hop
    split at h
    · next hdata =>
      obtain ⟨hn, rfl⟩ := acceptIf_eq_ok_iff.mp h
      obtain rfl : data = 0 := eq_of_beq hdata
      obtain rfl : n = 0 := eq_of_beq hn
      rfl
    · obtain ⟨hzero, rfl⟩ := acceptIf_eq_ok_iff.mp h
      simp only [Bool.and_eq_true, beq_iff_eq] at hzero
      obtain ⟨rfl, rfl⟩ := hzero
      rfl
  case h_9 => cases h
  all_goals
    next hop =>
    obtain ⟨hzero, rfl⟩ := acceptIf_eq_ok_iff.mp h
    simp only [Bool.and_eq_true, beq_iff_eq] at hzero
    obtain rfl : op = _ := eq_ofNat_of_toNat_eq hop
    simp only [instrFields, hzero]
    rfl

theorem decodeFields_eq_ok_iff {f : CmdFields} {i : Instr} : decodeFields f = .ok i ↔ instrFields i = f :=
  ⟨instrFields_of_decodeFields, fun h => h ▸ decodeFields_instrFields i⟩

theorem decode_eq_ok_iff {w : CmdWord} {i : Instr} : decode w = .ok i ↔ encode i = w := by
  rw [decode, decodeFields_eq_ok_iff, encode]
  constructor
  · intro h
    rw [h, cmdWord_cmdFields]
  · rintro rfl
    rw [cmdFields_cmdWord]

/-- Every instruction's fields pass the check (30_encoding.md R95). -/
theorem wf_instrFields (i : Instr) : (instrFields i).wf = true := by
  cases i <;> rfl

/-- Fields that pass the check of R95 decode: the check and the decoder have the same rows. -/
theorem exists_decodeFields_of_wf {f : CmdFields} (h : f.wf = true) : ∃ i, decodeFields f = .ok i := by
  unfold CmdFields.wf at h
  unfold decodeFields
  split at h
  case h_8 hop =>
    obtain ⟨hn, hdata⟩ := Bool.and_eq_true_iff.mp h
    cases h0 : f.data == 0 <;> simp_all [acceptIf]
  case h_9 => cases h
  all_goals
    next hop => simp_all [acceptIf]

/-- An op outside the opcode map is refused under its own name (30_encoding.md R100). -/
theorem decodeFields_of_reserved {f : CmdFields}
    (h : f.op.toNat ∉ [0x01, 0x02, 0x03, 0x04, 0x05, 0x06, 0x10, 0x11]) :
    decodeFields f = .error (.reservedOp f.op) := by
  unfold decodeFields
  split
  case h_9 => rfl
  all_goals
    next hop => simp [hop] at h

/-- Settles O2: the fields are read back from the word, and each row of the opcode map gives its instruction back. -/
theorem decodeOfEncodeGivesBack : Obligations.DecodeOfEncodeGivesBack := fun _ => decode_eq_ok_iff.mpr rfl

/-- Settles O3: a word is made of its fields, and fields that decode are those of the instruction. -/
theorem decodedWordIsUnique : Obligations.DecodedWordIsUnique := fun _ _ => decode_eq_ok_iff.mp

/-- Settles O4: fields that decode are an instruction's and so pass the check; fields that pass it decode. -/
theorem wordDecodesIffWellFormed : Obligations.WordDecodesIffWellFormed := by
  intro w
  refine ⟨⟨?_, exists_decodeFields_of_wf⟩, decodeFields_of_reserved⟩
  rintro ⟨i, hi⟩
  rw [← decodeFields_eq_ok_iff.mp hi]
  exact wf_instrFields i

/-- Settles O1: the twelve words are concrete, so the decoder computes them. -/
theorem specWordsDecode : Obligations.SpecWordsDecode := by
  unfold Obligations.SpecWordsDecode
  decide

end Sys2Proof
end

section
/-! PROOFS. The family 40_color_model.md, continued, and 30_encoding.md section 2: the sum of pack, reverseBrightness, what
scaling and reversing a byte keep, the duty table, and the table of layouts. -/

namespace Sys2Proof.Machine

/-! ### ColorWords -/

/-- Settles O10: it is `pack_toNat`, the sum that fits 32 bits. -/
theorem packIsTheWeightedSum : Obligations.PackIsTheWeightedSum := pack_toNat

/-! ### reverseBrightness (40_color_model.md R114) -/

theorem reverseBrightness_zero (s : Byte) : reverseBrightness s 0 = s := if_pos rfl

/-- The saturated quotient is at most 255, so narrowing it to a byte drops nothing. -/
theorem reverseBrightness_toNat (s : Byte) {b : Byte} (hb : b ≠ 0) :
    (reverseBrightness s b).toNat = min 255 ((s.toNat * 2 ^ 8 + b.toNat / 2) / b.toNat) := by
  rw [reverseBrightness, if_neg hb, BitVec.toNat_ofNat]
  exact Nat.mod_eq_of_lt (Nat.lt_of_le_of_lt (Nat.min_le_left _ _) (by decide))

/-- Settles O12: brightness 0 is the sentinel, and the saturated quotient fits a byte. -/
theorem reverseBrightnessSaturates : Obligations.ReverseBrightnessSaturates := by
  intro s b
  refine ⟨?_, fun hb => reverseBrightness_toNat s hb⟩
  rintro rfl
  exact reverseBrightness_zero s

/-! ### The bounds of applyBrightness (40_color_model.md R113) -/

theorem toNat_pos_of_ne_zero {b : Byte} (hb : b ≠ 0) : 0 < b.toNat :=
  Nat.pos_of_ne_zero fun h => hb (BitVec.eq_of_toNat_eq h)

theorem applyBrightness_le (v : Byte) {b : Byte} (hb : b ≠ 0) : (applyBrightness v b).toNat ≤ 254 := by
  have hle := roundedProduct_le v b
  rw [applyBrightness_toNat v hb]
  omega

theorem applyBrightness_mono {v v' : Byte} (h : v.toNat ≤ v'.toNat) (b : Byte) :
    (applyBrightness v b).toNat ≤ (applyBrightness v' b).toNat := by
  by_cases hb : b = 0
  · rw [hb, applyBrightness_zero, applyBrightness_zero]
    exact h
  · rw [applyBrightness_toNat v hb, applyBrightness_toNat v' hb]
    exact Nat.div_le_div_right (Nat.add_le_add_right (Nat.mul_le_mul_right _ h) _)

/-- Full brightness divides by 256 where it multiplies by 255: the loss is one from 129 up. -/
theorem applyBrightness_full (v : Byte) :
    (applyBrightness v 255).toNat = if v.toNat ≤ 128 then v.toNat else v.toNat - 1 := by
  have hv := v.isLt
  rw [applyBrightness_toNat v (by decide), show (255 : Byte).toNat = 255 from rfl]
  split <;> omega

/-- Settles O13: the bound, monotony in the value, and the two ranges at brightness 255. -/
theorem applyBrightnessBounds : Obligations.ApplyBrightnessBounds := by
  refine ⟨fun v b hb => applyBrightness_le v hb, fun v v' b h => applyBrightness_mono h b, fun v => ⟨fun h => ?_, fun h => ?_⟩⟩
  · exact BitVec.eq_of_toNat_eq (by rw [applyBrightness_full, if_pos h])
  · rw [applyBrightness_full, if_neg (by omega)]

/-! ### Storing a channel and reading it back (40_color_model.md R116) -/

/-- Scaling rounds to nearest: the scaled value, times 256, is off the product by at most one half. -/
theorem applyBrightness_error (v : Byte) {b : Byte} (hb : b ≠ 0) :
    (applyBrightness v b).toNat * 256 ≤ v.toNat * b.toNat + 128 ∧
      v.toNat * b.toNat + 128 < (applyBrightness v b).toNat * 256 + 256 := by
  rw [applyBrightness_toNat v hb]
  omega

/-- Reversing rounds to nearest, unless it saturates. -/
theorem reverseBrightness_error (s : Byte) {b : Byte} (hb : b ≠ 0) :
    (reverseBrightness s b).toNat * b.toNat ≤ s.toNat * 256 + b.toNat / 2 ∧
      ((reverseBrightness s b).toNat = 255 ∨
        s.toNat * 256 + b.toNat / 2 < (reverseBrightness s b).toNat * b.toNat + b.toNat) := by
  have hpos := toNat_pos_of_ne_zero hb
  rw [reverseBrightness_toNat s hb]
  generalize hq : (s.toNat * 2 ^ 8 + b.toNat / 2) / b.toNat = q
  have hlow : q * b.toNat ≤ s.toNat * 256 + b.toNat / 2 := hq ▸ Nat.div_mul_le_self _ _
  have hhigh : s.toNat * 256 + b.toNat / 2 < q * b.toNat + b.toNat := by
    have := Nat.lt_div_mul_add (a := s.toNat * 2 ^ 8 + b.toNat / 2) hpos
    rwa [hq] at this
  refine ⟨Nat.le_trans (Nat.mul_le_mul_right _ (Nat.min_le_right _ _)) hlow, ?_⟩
  rcases Nat.le_total 255 q with h | h
  · exact .inl (Nat.min_eq_left h)
  · rw [Nat.min_eq_right h]
    exact .inr hhigh

/-- The distance of a byte from the one read back, times the brightness, is at most 128 and one half of the brightness. -/
theorem roundTrip_distance (v : Byte) {b : Byte} (hb : b ≠ 0) :
    (reverseBrightness (applyBrightness v b) b).toNat * b.toNat ≤ v.toNat * b.toNat + (128 + b.toNat / 2) ∧
      v.toNat * b.toNat < (reverseBrightness (applyBrightness v b) b).toNat * b.toNat + (128 + b.toNat) := by
  obtain ⟨ha, ha'⟩ := applyBrightness_error v hb
  obtain ⟨hr, hr'⟩ := reverseBrightness_error (applyBrightness v b) hb
  have hpos := toNat_pos_of_ne_zero hb
  refine ⟨by omega, ?_⟩
  rcases hr' with h | h
  · have : v.toNat * b.toNat ≤ 255 * b.toNat := Nat.mul_le_mul_right _ (Nat.le_of_lt_succ v.isLt)
    rw [h]
    omega
  · omega

/-- In units of the brightness, a distance below ceil(128 / b) * b + b is at most ceil(128 / b). -/
theorem le_add_ceil_of_mul_lt {x y b : Nat} (hb : 0 < b) (h : x * b < y * b + (128 + b)) :
    x ≤ y + (128 + b - 1) / b := by
  have hdiff : (x - y) * b ≤ 128 + b - 1 := by
    rw [Nat.sub_mul]
    omega
  have := (Nat.le_div_iff_mul_le hb).mpr hdiff
  omega

/-- A byte read back is scaled to the byte that was stored: the second rounding undoes the first, also at the saturation. -/
theorem applyBrightness_roundTrip (v b : Byte) :
    applyBrightness (reverseBrightness (applyBrightness v b) b) b = applyBrightness v b := by
  by_cases hb : b = 0
  · subst hb
    simp only [applyBrightness_zero, reverseBrightness_zero]
  · obtain ⟨ha, ha'⟩ := applyBrightness_error v hb
    obtain ⟨hr, hr'⟩ := reverseBrightness_error (applyBrightness v b) hb
    have hlt := b.isLt
    have hlow : (applyBrightness v b).toNat * 256 ≤
        (reverseBrightness (applyBrightness v b) b).toNat * b.toNat + 128 := by
      rcases hr' with h | h
      · have : v.toNat * b.toNat ≤ 255 * b.toNat := Nat.mul_le_mul_right _ (Nat.le_of_lt_succ v.isLt)
        rw [h]
        omega
      · omega
    apply BitVec.eq_of_toNat_eq
    rw [applyBrightness_toNat _ hb]
    omega

/-- 0 is stored as 0 and read back as 0, at every brightness (40_color_model.md R116). -/
theorem applyBrightness_zero_left (b : Byte) : applyBrightness 0 b = 0 := by
  by_cases hb : b = 0
  · rw [hb, applyBrightness_zero]
  · exact BitVec.eq_of_toNat_eq (by rw [applyBrightness_toNat 0 hb]; simp)

theorem reverseBrightness_zero_left (b : Byte) : reverseBrightness 0 b = 0 := by
  by_cases hb : b = 0
  · rw [hb, reverseBrightness_zero]
  · apply BitVec.eq_of_toNat_eq
    have hhalf : b.toNat / 2 / b.toNat = 0 := Nat.div_eq_of_lt (Nat.div_lt_self (toNat_pos_of_ne_zero hb) (by decide))
    rw [reverseBrightness_toNat 0 hb]
    simp [hhalf]

/-- Settles O14: the distance `roundTrip_distance` bounds both ways, and scaling what was read back changes nothing. -/
theorem brightnessRoundTripError : Obligations.BrightnessRoundTripError := by
  intro v b rt
  refine ⟨?_, fun hb => ?_, ?_, ?_⟩
  · rintro rfl
    exact (reverseBrightness_zero _).trans (applyBrightness_zero v)
  · obtain ⟨hup, hdown⟩ := roundTrip_distance v hb
    have hpos := toNat_pos_of_ne_zero hb
    exact ⟨le_add_ceil_of_mul_lt hpos (Nat.lt_of_le_of_lt hup (by omega)), le_add_ceil_of_mul_lt hpos hdown⟩
  · exact congrArg (reverseBrightness · b) (applyBrightness_roundTrip v b)
  · exact (congrArg (reverseBrightness · b) (applyBrightness_zero_left b)).trans (reverseBrightness_zero_left b)

/-! ### The duty table (41_bitstream_encoder.md R133) -/

/-- With differing duties an entry tells its bit. -/
theorem lut_injective {s : State} (hne : s.zeroDuty ≠ s.oneDuty) {x y : Bool} (h : s.lut x = s.lut y) : x = y := by
  cases x <;> cases y
  · rfl
  · exact absurd h hne
  · exact absurd h.symm hne
  · rfl

theorem lut_eq_oneDuty_iff {s : State} (hne : s.zeroDuty ≠ s.oneDuty) (x : Bool) : s.lut x = s.oneDuty ↔ x = true :=
  ⟨fun h => lut_injective (y := true) hne h, fun h => h ▸ rfl⟩

/-- Bit i is told by entry 7 - i. -/
theorem encodeByte_injective {s : State} (hne : s.zeroDuty ≠ s.oneDuty) {x y : Byte}
    (h : s.encodeByte x = s.encodeByte y) : x = y := by
  apply BitVec.eq_of_getLsbD_eq
  intro i hi
  have hentry := congrArg (·[7 - i]?) h
  simp only [encodeByte_getElem? s _ (show 7 - i < 8 by omega), Option.some.injEq] at hentry
  have hbit := lut_injective hne hentry
  rwa [show 7 - (7 - i) = i by omega] at hbit

/-- The entries are the bits of the byte from 7 down to 0, looked up. -/
theorem encodeByte_eq_reverse (s : State) (x : Byte) :
    s.encodeByte x = ((List.range 8).map (fun i => s.lut (x.getLsbD i))).reverse := rfl

theorem encodeByte_count_oneDuty {s : State} (hne : s.zeroDuty ≠ s.oneDuty) (x : Byte) :
    (s.encodeByte x).count s.oneDuty = ((List.range 8).filter (fun i => x.getLsbD i)).length := by
  rw [encodeByte_eq_reverse, List.count_reverse, List.count, List.countP_map, List.countP_eq_length_filter]
  congr 2
  funext i
  rw [Bool.eq_iff_iff]
  exact beq_iff_eq.trans (lut_eq_oneDuty_iff hne _)

/-- Settles O18: each entry tells its bit, and the entries are the bits looked up. -/
theorem encodeByteInjective : Obligations.EncodeByteInjective := fun _ hne =>
  ⟨fun _ _ h => encodeByte_injective hne h, fun x => encodeByte_count_oneDuty hne x⟩

/-! ### The table of layouts (30_encoding.md R84) -/

/-- W comes first where there is a W (30_encoding.md R83, R84). -/
theorem chanOff_w (l : Layout) : chanOff l .w = if (layoutRow l).bpp = 4 then some 0 else none := by
  cases l <;> rfl

/-- No two channels of a layout share an offset. -/
theorem chanOff_injective {l : Layout} {c c' : Channel} {o : Nat} (h : chanOff l c = some o)
    (h' : chanOff l c' = some o) : c = c' := by
  cases l <;> cases c <;> cases h <;> cases c' <;> cases h' <;> rfl

theorem ofCode?_of_gt {code : Nat} (h : 11 < code) : Layout.ofCode? code = none := by
  obtain ⟨k, rfl⟩ := Nat.exists_eq_add_of_le h
  rw [Nat.add_comm]
  rfl

/-- The code of a layout, its row in the table. -/
theorem exists_code (l : Layout) : ∃ code ≤ 11, Layout.ofCode? code = some l := by
  cases l
  · exact ⟨0, by decide, rfl⟩
  · exact ⟨1, by decide, rfl⟩
  · exact ⟨2, by decide, rfl⟩
  · exact ⟨3, by decide, rfl⟩
  · exact ⟨4, by decide, rfl⟩
  · exact ⟨5, by decide, rfl⟩
  · exact ⟨6, by decide, rfl⟩
  · exact ⟨7, by decide, rfl⟩
  · exact ⟨8, by decide, rfl⟩
  · exact ⟨9, by decide, rfl⟩
  · exact ⟨10, by decide, rfl⟩
  · exact ⟨11, by decide, rfl⟩

/-- Settles O16: the table is a list of twelve rows, each computed; a code above 11 meets none of them. -/
theorem layoutOffsetsArePermutation : Obligations.LayoutOffsetsArePermutation := by
  refine ⟨by simp only [List.Forall]; and_intros <;> rfl, fun l => ⟨?_, chanOff_w l⟩, exists_code, fun _ => ofCode?_of_gt⟩
  cases l <;> decide

end Sys2Proof.Machine
end

section
/-! PROOFS. The families 43_transfer_controller.md and 40_color_model.md section 2: what each foreground command answers,
by the outcome of its tests and its wait, and what its accesses are then. -/

namespace Sys2Proof.Machine

variable {s : State}

/-! ### SHOW (43_transfer_controller.md R172) -/

theorem exec_showCmd_of_empty (h : s.n = 0) : exec .showCmd s = .next s.retire := if_pos h

theorem exec_showCmd_of_busy (hn : s.n ≠ 0) (hr : s.ready = false) : exec .showCmd s = .next s :=
  (if_neg hn).trans (if_neg (by simp [State.fullWaitDone, hr]))

/-- What SHOW leaves in the DMA buffer: H zeros in half A, and in half B the unit at cursor 0. -/
def State.primedDma (s : State) : Memory 16 :=
  Memory.writeRun (Memory.writeRun s.dma 0 (List.replicate s.halfLen 0)) s.halfLen
    ({ s with outIndex := 0 } : State).cursorEntries

/-- The state start leaves behind (42_scheduler.md R144). -/
def State.started (s : State) : State :=
  { s with
    dma := s.primedDma
    outIndex := BitVec.ofNat 32 s.bpp
    ready := false
    phase := .streaming
    irqEn := true
    hwRun := true
    rp := 0
    pend := none
    outputs := s.outputs ++ [.startPwmDma s.bufLen] }

theorem exec_showCmd_of_ready (hn : s.n ≠ 0) (hr : s.ready = true) : exec .showCmd s = .next s.started.retire := by
  simp only [exec, execShow, hn, State.fullWaitDone, hr, if_false, if_true, startTransfer_eq]
  rfl

theorem accessesOf_showCmd_of_empty (h : s.n = 0) : accessesOf .showCmd s = some [] := if_pos h

theorem accessesOf_showCmd_of_busy (hn : s.n ≠ 0) (hr : s.ready = false) : accessesOf .showCmd s = none :=
  (if_neg hn).trans (if_neg (by simp [State.fullWaitDone, hr]))

theorem accessesOf_showCmd_of_ready (hn : s.n ≠ 0) (hr : s.ready = true) :
    accessesOf .showCmd s = some (s.primingAccesses ++ [.startEngine]) :=
  (if_neg hn).trans (if_pos hr)

/-! ### CLEAR and WAIT (43_transfer_controller.md R173, R174) -/

theorem exec_clearCmd_of_ready (hr : s.ready = true) :
    exec .clearCmd s = .next (s.fbWriteAll (List.replicate s.fbSize 0)).retire := if_pos hr

theorem exec_clearCmd_of_busy (hr : s.ready = false) : exec .clearCmd s = .next s := by
  simp [exec, execClear, State.fullWaitDone, hr]

theorem accessesOf_clearCmd_of_ready (hr : s.ready = true) :
    accessesOf .clearCmd s = some ((List.range s.fbSize).map (fun a => .storeFb a 0)) := if_pos hr

theorem accessesOf_clearCmd_of_busy (hr : s.ready = false) : accessesOf .clearCmd s = none := by
  simp [accessesOf, State.fullWaitDone, hr]

theorem exec_waitCmd_of_ready (hr : s.ready = true) : exec .waitCmd s = .next s.retire := if_pos hr

theorem exec_waitCmd_of_busy (hr : s.ready = false) : exec .waitCmd s = .next s := by
  simp [exec, execWait, State.fullWaitDone, hr]

theorem accessesOf_waitCmd_of_ready (hr : s.ready = true) : accessesOf .waitCmd s = some [] := if_pos hr

theorem accessesOf_waitCmd_of_busy (hr : s.ready = false) : accessesOf .waitCmd s = none := by
  simp [accessesOf, State.fullWaitDone, hr]

/-! ### SETPIX (43_transfer_controller.md R176) -/

/-- The stores SETPIX makes: for each channel the strip has, its scaled byte at its address. -/
def State.pixelStores (s : State) (p : Nat) (color : ColorWord) : List Access :=
  [Channel.r, .g, .b, .w].filterMap (fun c => (s.chanAddr p c).map (fun a => .storeScaled a (channelOf color c)))

theorem exec_setPix_of_outOfRange {n : BitVec 16} (color : ColorWord) (h : s.n.toNat ≤ n.toNat) :
    exec (.setPix n color) s = .next s.retire := if_pos (BitVec.le_def.mpr h)

theorem exec_setPix_of_done {n : BitVec 16} (color : ColorWord) (h : n.toNat < s.n.toNat)
    (hw : s.cursorWaitDone n.toNat = true) : exec (.setPix n color) s = .next (s.storePixel n.toNat color).retire := by
  have hin : ¬s.n ≤ n := fun hle => Nat.not_le_of_lt h (BitVec.le_def.mp hle)
  simp only [exec, execSetPix, if_neg hin, hw, if_true]

theorem exec_setPix_of_waiting {n : BitVec 16} (color : ColorWord) (h : n.toNat < s.n.toNat)
    (hw : s.cursorWaitDone n.toNat = false) : exec (.setPix n color) s = .next s := by
  have hin : ¬s.n ≤ n := fun hle => Nat.not_le_of_lt h (BitVec.le_def.mp hle)
  simp [exec, execSetPix, hin, hw]

theorem accessesOf_setPix_of_outOfRange {n : BitVec 16} (color : ColorWord) (h : s.n.toNat ≤ n.toNat) :
    accessesOf (.setPix n color) s = some [] := if_pos (BitVec.le_def.mpr h)

theorem accessesOf_setPix_of_done {n : BitVec 16} (color : ColorWord) (h : n.toNat < s.n.toNat)
    (hw : s.cursorWaitDone n.toNat = true) : accessesOf (.setPix n color) s = some (s.pixelStores n.toNat color) := by
  have hin : ¬s.n ≤ n := fun hle => Nat.not_le_of_lt h (BitVec.le_def.mp hle)
  simp only [accessesOf, if_neg hin, hw, if_true]
  rfl

theorem accessesOf_setPix_of_waiting {n : BitVec 16} (color : ColorWord) (h : n.toNat < s.n.toNat)
    (hw : s.cursorWaitDone n.toNat = false) : accessesOf (.setPix n color) s = none := by
  have hin : ¬s.n ≤ n := fun hle => Nat.not_le_of_lt h (BitVec.le_def.mp hle)
  simp [accessesOf, hin, hw]

/-! ### GETPIX (43_transfer_controller.md R178) -/

/-- The reads GETPIX makes: each channel the strip has. -/
def State.pixelLoads (s : State) (p : Nat) : List Access :=
  [Channel.r, .g, .b, .w].filterMap (fun c => (s.chanAddr p c).map .loadFb)

theorem exec_getPix_of_outOfRange {n : BitVec 16} (h : s.n.toNat ≤ n.toNat) :
    exec (.getPix n) s = .next (s.giveResult 0).retire := if_pos (BitVec.le_def.mpr h)

theorem exec_getPix_of_inRange {n : BitVec 16} (h : n.toNat < s.n.toNat) :
    exec (.getPix n) s = .next (s.giveResult (s.loadPixel n.toNat)).retire :=
  if_neg fun hle => Nat.not_le_of_lt h (BitVec.le_def.mp hle)

theorem accessesOf_getPix_of_outOfRange {n : BitVec 16} (h : s.n.toNat ≤ n.toNat) :
    accessesOf (.getPix n) s = some [.returnZero] := if_pos (BitVec.le_def.mpr h)

theorem accessesOf_getPix_of_inRange {n : BitVec 16} (h : n.toNat < s.n.toNat) :
    accessesOf (.getPix n) s = some (s.pixelLoads n.toNat ++ [.returnColour]) :=
  if_neg fun hle => Nat.not_le_of_lt h (BitVec.le_def.mp hle)

/-! ### SETBRI (40_color_model.md R118) -/

/-- The FrameBuffer bytes SETBRI b writes. -/
def State.rescaledBytes (s : State) (b : Byte) : List Byte :=
  (List.range s.fbSize).map (fun i => rescale (s.fbRead i) s.brightness b)

/-- SETBRI reads each byte and then stores it rescaled. -/
def State.rescaleAccesses (s : State) (b : Byte) : List Access :=
  (List.range s.fbSize).flatMap (fun a => [.loadFb a, .storeRescaled a b])

theorem extractLsb'_of_toNat_eq {data : BitVec 32} {b : Byte} (h : data.toNat = b.toNat) :
    data.extractLsb' 0 8 = b := by
  have hb := b.isLt
  apply BitVec.eq_of_toNat_eq
  rw [BitVec.extractLsb'_toNat, h, Nat.shiftRight_zero, Nat.mod_eq_of_lt hb]

theorem exists_byte_of_le {data : BitVec 32} (h : data.toNat ≤ 255) : ∃ b : Byte, data.toNat = b.toNat :=
  ⟨BitVec.ofNat 8 data.toNat, by rw [BitVec.toNat_ofNat, Nat.mod_eq_of_lt (by omega)]⟩

section
variable {data : BitVec 32} {b : Byte}

theorem exec_setBri_of_large (h : 255 < data.toNat) : exec (.setBri data) s = .next s.retire := if_pos h

theorem exec_setBri_of_current (h : data.toNat = s.brightness.toNat) : exec (.setBri data) s = .next s.retire := by
  have hb := s.brightness.isLt
  simp only [exec, execSetBri, extractLsb'_of_toNat_eq h, if_true, ite_self]

theorem not_large_of_toNat_eq (h : data.toNat = b.toNat) : ¬255 < data.toNat := by
  have hb := b.isLt
  omega

theorem exec_setBri_of_ready (h : data.toNat = b.toNat) (hne : b ≠ s.brightness) (hr : s.ready = true) :
    exec (.setBri data) s = .next ({ s.fbWriteAll (s.rescaledBytes b) with brightness := b } : State).retire := by
  simp only [exec, execSetBri, if_neg (not_large_of_toNat_eq h), extractLsb'_of_toNat_eq h, if_neg hne,
    State.fullWaitDone, hr, if_true]
  rfl

theorem exec_setBri_of_busy (h : data.toNat = b.toNat) (hne : b ≠ s.brightness) (hr : s.ready = false) :
    exec (.setBri data) s = .next s := by
  simp [exec, execSetBri, not_large_of_toNat_eq h, extractLsb'_of_toNat_eq h, hne, State.fullWaitDone, hr]

theorem accessesOf_setBri_of_large (h : 255 < data.toNat) : accessesOf (.setBri data) s = some [] := if_pos h

theorem accessesOf_setBri_of_current (h : data.toNat = s.brightness.toNat) :
    accessesOf (.setBri data) s = some [] := by
  simp only [accessesOf, extractLsb'_of_toNat_eq h, if_true, ite_self]

theorem accessesOf_setBri_of_ready (h : data.toNat = b.toNat) (hne : b ≠ s.brightness) (hr : s.ready = true) :
    accessesOf (.setBri data) s = some (s.rescaleAccesses b ++ [.setBrightness b]) := by
  simp only [accessesOf, if_neg (not_large_of_toNat_eq h), extractLsb'_of_toNat_eq h, if_neg hne,
    State.fullWaitDone, hr, if_true]
  rfl

theorem accessesOf_setBri_of_busy (h : data.toNat = b.toNat) (hne : b ≠ s.brightness) (hr : s.ready = false) :
    accessesOf (.setBri data) s = none := by
  simp [accessesOf, not_large_of_toNat_eq h, extractLsb'_of_toNat_eq h, hne, State.fullWaitDone, hr]

end

end Sys2Proof.Machine
end

section
/-! PROOFS. The families 43_transfer_controller.md and 40_color_model.md section 2: what the foreground commands leave in
the two memories, and that they change nothing else. -/

namespace Sys2Proof.Machine

/-! ### Commands that only complete, and commands that are held -/

/-- Settles O27. -/
theorem showOnEmptyStripDoesNothing : Obligations.ShowOnEmptyStripDoesNothing := fun _ h => exec_showCmd_of_empty h

/-- Settles O29. -/
theorem waitReturnsWhenReady : Obligations.WaitReturnsWhenReady := fun _ =>
  ⟨exec_waitCmd_of_ready, exec_waitCmd_of_busy⟩

/-- Settles O31. -/
theorem setPixOutOfRangeIsSilent : Obligations.SetPixOutOfRangeIsSilent := fun _ _ color h =>
  exec_setPix_of_outOfRange color h

/-- Settles O34: the two early returns of SETBRI. -/
theorem setBriIgnoredOrEqual : Obligations.SetBriIgnoredOrEqual := by
  intro s data h
  rcases h with hlarge | hcurrent
  · exact exec_setBri_of_large hlarge
  · exact exec_setBri_of_current hcurrent

/-- Settles O35: each of the five commands by the outcome of its tests, the wait being false. -/
theorem busyCommandsAreHeld : Obligations.BusyCommandsAreHeld := by
  intro s hr
  refine ⟨exec_waitCmd_of_busy hr, exec_clearCmd_of_busy hr, fun hn => exec_showCmd_of_busy hn hr, ?_, ?_⟩
  · intro data hle hne
    obtain ⟨b, hb⟩ := exists_byte_of_le hle
    exact exec_setBri_of_busy hb (fun h => hne (hb.trans (congrArg _ h))) hr
  · intro n color hin hcursor
    refine exec_setPix_of_waiting color hin (Bool.eq_false_iff.mpr fun hdone => ?_)
    rcases (cursorWaitDone_iff s n.toNat).mp hdone with h | h
    · rw [hr] at h
      cases h
    · omega

/-! ### CLEAR and SETBRI: loops over the whole FrameBuffer -/

theorem fbRead_fbWriteAll_zero (s : State) (a : Nat) :
    (s.fbWriteAll (List.replicate s.fbSize 0)).fbRead a = if a < s.fbSize then 0 else s.fbRead a := by
  rw [fbRead_fbWriteAll, List.getElem?_replicate]
  split <;> rfl

theorem fbRead_fbWriteAll_rescaled (s : State) (b : Byte) (a : Nat) :
    (s.fbWriteAll (s.rescaledBytes b)).fbRead a =
      if a < s.fbSize then rescale (s.fbRead a) s.brightness b else s.fbRead a := by
  rw [fbRead_fbWriteAll, State.rescaledBytes, List.getElem?_map]
  split
  · next h => rw [List.getElem?_range h]; rfl
  · next h => rw [List.getElem?_eq_none (by simpa using h)]; rfl

/-- Settles O28. -/
theorem clearZeroesFrameBuffer : Obligations.ClearZeroesFrameBuffer := by
  intro s hr
  refine ⟨_, exec_clearCmd_of_ready hr, rfl, fun a ha => ?_, fun a ha => ?_⟩
  · exact (fbRead_fbWriteAll_zero s a).trans (if_pos ha)
  · exact (fbRead_fbWriteAll_zero s a).trans (if_neg (Nat.not_lt_of_le ha))

/-- Settles O33: the byte SETBRI writes is the old one read back and scaled anew, by the definition of rescale. -/
theorem setBriRescalesEveryByte : Obligations.SetBriRescalesEveryByte := by
  intro s data b hb hne hr
  refine ⟨_, exec_setBri_of_ready hb hne hr, rfl, fun a ha => ?_, fun a ha => ?_⟩
  · exact (fbRead_fbWriteAll_rescaled s b a).trans (if_pos ha)
  · exact (fbRead_fbWriteAll_rescaled s b a).trans (if_neg (Nat.not_lt_of_le ha))

/-! ### SETPIX: the record of one pixel -/

theorem fbRead_storeChannel (s : State) (p : Nat) (c : Channel) (v : Byte) (a : Nat) :
    (s.storeChannel p c v).fbRead a =
      if s.chanAddr p c = some a then applyBrightness v s.brightness else s.fbRead a := by
  unfold State.storeChannel
  split
  · next b hb => simp only [fbRead_fbWrite, hb, Option.some.injEq, @eq_comm _ a]
  · next hb => simp [hb]

/-- A store into a record changes the FrameBuffer only. -/
theorem storeChannel_frame (s : State) (p : Nat) (c : Channel) (v : Byte) :
    s.storeChannel p c v = { s with fb := (s.storeChannel p c v).fb } := by
  unfold State.storeChannel
  split <;> rfl

@[simp] theorem storeChannel_brightness (s : State) (p : Nat) (c : Channel) (v : Byte) :
    (s.storeChannel p c v).brightness = s.brightness := by
  rw [storeChannel_frame]

@[simp] theorem storeChannel_chanAddr (s : State) (p : Nat) (c : Channel) (v : Byte) (p' : Nat) (c' : Channel) :
    (s.storeChannel p c v).chanAddr p' c' = s.chanAddr p' c' := by
  rw [storeChannel_frame]
  rfl

theorem storePixel_frame (s : State) (p : Nat) (color : ColorWord) :
    s.storePixel p color = { s with fb := (s.storePixel p color).fb } := by
  unfold State.storePixel
  rw [storeChannel_frame, storeChannel_frame, storeChannel_frame, storeChannel_frame]

/-- No two channels of a pixel share an address. -/
theorem chanAddr_injective {s : State} {p : Nat} {c c' : Channel} {a : Nat} (h : s.chanAddr p c = some a)
    (h' : s.chanAddr p c' = some a) : c = c' := by
  simp only [State.chanAddr, Option.map_eq_some_iff] at h h'
  obtain ⟨o, ho, rfl⟩ := h
  obtain ⟨o', ho', heq⟩ := h'
  exact chanOff_injective ho (ho'.trans (congrArg some (Nat.add_left_cancel heq)))

/-- The channel at an address of the record, if there is one, decides what SETPIX leaves there. -/
theorem fbRead_storePixel (s : State) (p : Nat) (color : ColorWord) (a : Nat) :
    (s.storePixel p color).fbRead a =
      if s.chanAddr p .w = some a then applyBrightness (channelOf color .w) s.brightness
      else if s.chanAddr p .b = some a then applyBrightness (channelOf color .b) s.brightness
      else if s.chanAddr p .g = some a then applyBrightness (channelOf color .g) s.brightness
      else if s.chanAddr p .r = some a then applyBrightness (channelOf color .r) s.brightness
      else s.fbRead a := by
  simp only [State.storePixel, fbRead_storeChannel, storeChannel_chanAddr, storeChannel_brightness]

theorem fbRead_storePixel_of_chanAddr {s : State} {p : Nat} {c : Channel} {a : Nat} (h : s.chanAddr p c = some a)
    (color : ColorWord) : (s.storePixel p color).fbRead a = applyBrightness (channelOf color c) s.brightness := by
  have hother : ∀ {c'}, c' ≠ c → s.chanAddr p c' ≠ some a := fun hne h' => hne (chanAddr_injective h' h)
  rw [fbRead_storePixel]
  cases c with
  | w => rw [if_pos h]
  | b => rw [if_neg (hother (by decide)), if_pos h]
  | g => rw [if_neg (hother (by decide)), if_neg (hother (by decide)), if_pos h]
  | r => rw [if_neg (hother (by decide)), if_neg (hother (by decide)), if_neg (hother (by decide)), if_pos h]

theorem fbRead_storePixel_of_other {s : State} {p a : Nat} (h : ∀ c, s.chanAddr p c ≠ some a) (color : ColorWord) :
    (s.storePixel p color).fbRead a = s.fbRead a := by
  rw [fbRead_storePixel, if_neg (h _), if_neg (h _), if_neg (h _), if_neg (h _)]

/-- Settles O30: the wait is over, so the record is stored, each channel at an address of its own. -/
theorem setPixStoresRecord : Obligations.SetPixStoresRecord := by
  intro s n color hin hwait
  refine ⟨_, exec_setPix_of_done color hin ((cursorWaitDone_iff s _).mpr hwait), ?_,
    fun c a h => fbRead_storePixel_of_chanAddr h color, fun a h => fbRead_storePixel_of_other h color⟩
  rw [storePixel_frame]
  rfl

/-! ### GETPIX -/

/-- The white channel is at the start of the record where there is one, and reads as 0 where there is none. -/
theorem loadChannel_w (s : State) (p : Nat) :
    s.loadChannel p .w = if s.bpp = 4 then reverseBrightness (s.fbRead (p * s.bpp)) s.brightness else 0 := by
  unfold State.loadChannel State.chanAddr
  rw [chanOff_w]
  by_cases h : (layoutRow s.layout).bpp = 4
  · rw [if_pos h, if_pos (show s.bpp = 4 from h)]
    rfl
  · rw [if_neg h, if_neg (show ¬s.bpp = 4 from h)]
    rfl

/-- Settles O32: W by `loadChannel_w`, the other three channels by the definition of their offsets. -/
theorem getPixReturnsColour : Obligations.GetPixReturnsColour := by
  refine fun s n => ⟨fun hin => ?_, fun hout => exec_getPix_of_outOfRange hout⟩
  rw [exec_getPix_of_inRange hin, State.loadPixel, loadChannel_w]
  rfl

theorem loadChannel_of_chanAddr {s : State} {p : Nat} {c : Channel} {a : Nat} (h : s.chanAddr p c = some a) :
    s.loadChannel p c = reverseBrightness (s.fbRead a) s.brightness := by
  simp only [State.loadChannel, h]

theorem loadChannel_of_no_channel {s : State} {p : Nat} {c : Channel} (h : s.chanAddr p c = none) :
    s.loadChannel p c = 0 := by
  simp only [State.loadChannel, h]

/-- A channel stored at brightness 0 is read back exactly, where the strip has it. -/
theorem loadChannel_storePixel_of_raw {s : State} (hb : s.brightness = 0) (p : Nat) (color : ColorWord) (c : Channel) :
    (s.storePixel p color).loadChannel p c = if (s.chanAddr p c).isSome then channelOf color c else 0 := by
  have haddr : (s.storePixel p color).chanAddr p c = s.chanAddr p c := by rw [storePixel_frame]; rfl
  have hbri : (s.storePixel p color).brightness = 0 := by rw [storePixel_frame]; exact hb
  cases h : s.chanAddr p c with
  | none => exact loadChannel_of_no_channel (haddr.trans h)
  | some a =>
    rw [loadChannel_of_chanAddr (haddr.trans h), fbRead_storePixel_of_chanAddr h, hb, hbri]
    exact (reverseBrightness_zero _).trans (applyBrightness_zero _)

/-- Clearing W masks the top byte. -/
theorem pack_without_white (color : ColorWord) :
    pack 0 (channelOf color .r) (channelOf color .g) (channelOf color .b) = color &&& 0x00FFFFFF := by
  apply BitVec.eq_of_toNat_eq
  rw [pack_toNat, channelOf_r_toNat, channelOf_g_toNat, channelOf_b_toNat, BitVec.toNat_and,
    show (0x00FFFFFF : BitVec 32).toNat = 2 ^ 24 - 1 from rfl, Nat.and_two_pow_sub_one_eq_mod]
  simp only [BitVec.ofNat_eq_ofNat, BitVec.toNat_ofNat]
  omega

/-- Every layout has R, G and B (30_encoding.md R84). -/
theorem chanAddr_isSome_r (s : State) (p : Nat) : (s.chanAddr p .r).isSome = true := rfl
theorem chanAddr_isSome_g (s : State) (p : Nat) : (s.chanAddr p .g).isSome = true := rfl
theorem chanAddr_isSome_b (s : State) (p : Nat) : (s.chanAddr p .b).isSome = true := rfl

/-- A colour set and read back at brightness 0. -/
theorem loadPixel_storePixel_of_raw {s : State} (hb : s.brightness = 0) (p : Nat) (color : ColorWord) :
    (s.storePixel p color).loadPixel p = if s.bpp = 4 then color else color &&& 0x00FFFFFF := by
  have hw : (s.chanAddr p .w).isSome = decide (s.bpp = 4) := by
    rw [State.chanAddr, chanOff_w, Option.isSome_map, State.bpp]
    split <;> simp_all
  simp only [State.loadPixel, loadChannel_storePixel_of_raw hb, hw, chanAddr_isSome_r, chanAddr_isSome_g,
    chanAddr_isSome_b, if_true, decide_eq_true_eq]
  split
  · exact pack_channelOf color
  · exact pack_without_white color

/-- Settles O36. -/
theorem setThenGetReturnsTheColour : Obligations.SetThenGetReturnsTheColour := by
  intro s n color hb hin hwait
  have hn : (s.storePixel n.toNat color).n = s.n := by rw [storePixel_frame]
  have hret : (s.storePixel n.toNat color).returned = s.returned := by rw [storePixel_frame]
  refine ⟨_, _, exec_setPix_of_done color hin ((cursorWaitDone_iff s _).mpr hwait),
    exec_getPix_of_inRange (by rw [State.retire_n, hn]; exact hin), ?_⟩
  rw [State.retire_returned, State.giveResult_returned, State.retire_returned, hret]
  exact congrArg (fun c => s.returned ++ [c]) (loadPixel_storePixel_of_raw hb n.toNat color)

/-- On a strip whose FrameBuffer is all 0 every pixel is black. -/
theorem loadPixel_of_zero {s : State} (h : ∀ a < s.fbSize, s.fbRead a = 0) {p : Nat} (hp : p < s.n.toNat) :
    s.loadPixel p = 0 := by
  have hchan : ∀ c, s.loadChannel p c = 0 := fun c => by
    cases ha : s.chanAddr p c with
    | none => exact loadChannel_of_no_channel ha
    | some a => rw [loadChannel_of_chanAddr ha, h a (chanAddr_lt ha hp), reverseBrightness_zero_left]
  simp only [State.loadPixel, hchan]
  rfl

/-- Settles O37: in range every channel reads the 0 that CLEAR wrote, out of range GETPIX returns 0. -/
theorem clearThenGetReturnsZero : Obligations.ClearThenGetReturnsZero := by
  refine fun s hr => ⟨_, exec_clearCmd_of_ready hr, fun n => ?_⟩
  rcases Nat.lt_or_ge n.toNat s.n.toNat with hin | hout
  · refine ⟨_, exec_getPix_of_inRange hin, congrArg (fun c => s.returned ++ [c]) (loadPixel_of_zero (fun a ha => ?_) hin)⟩
    exact (fbRead_fbWriteAll_zero s a).trans (if_pos ha)
  · exact ⟨_, exec_getPix_of_outOfRange hout, rfl⟩

/-! ### SHOW -/

/-- The DMA buffer after SHOW is that of two fills, of half A with zeros and of half B from cursor 0. -/
theorem primedDma_eq_fillHalf (s : State) :
    s.primedDma = ((s.zeroHalf .a).fillHalf .b ({ s with outIndex := 0 } : State).cursorEntries).dma := by
  simp [State.primedDma, State.halfBase]

theorem cursorEntries_of_pixel_zero {s : State} (hn : s.n ≠ 0) :
    ({ s with outIndex := 0 } : State).cursorEntries = s.encodeRecord 0 := by
  have hpos : 0 < s.n.toNat * s.bpp :=
    Nat.mul_pos (Nat.pos_of_ne_zero fun h => hn (BitVec.eq_of_toNat_eq h)) (bpp_pos s)
  exact if_pos ((cursorInData_iff ({ s with outIndex := 0 } : State)).mpr hpos)

/-- What an entry of the DMA buffer is after SHOW (42_scheduler.md R144). -/
theorem dmaRead_started {s : State} (hn : s.n ≠ 0) (e : Nat) :
    s.started.dmaRead e =
      if e < s.halfLen then 0
      else if e < s.bufLen then ((s.encodeRecord 0)[e - s.halfLen]?).getD 0
      else s.dmaRead e := by
  have hread : s.started.dmaRead e = ((s.zeroHalf .a).fillHalf .b (s.encodeRecord 0)).dmaRead e := by
    rw [← cursorEntries_of_pixel_zero hn]
    simp only [State.dmaRead, ← primedDma_eq_fillHalf]
    rfl
  have hlen := encodeRecord_length s 0
  have hbuf : s.bufLen = s.halfLen + s.halfLen := by unfold State.bufLen State.halfLen; omega
  rw [hread, dmaRead_fillHalf, State.zeroHalf, dmaRead_fillHalf]
  simp only [State.halfBase, State.fillHalf_halfLen, hlen, List.length_replicate, List.getElem?_replicate, Nat.zero_le,
    true_and, Nat.zero_add, Nat.sub_zero, hbuf]
  by_cases hA : e < s.halfLen
  · simp [hA, Nat.not_le.mpr hA]
  · by_cases hB : e < s.halfLen + s.halfLen
    · simp [hA, hB, Nat.not_lt.mp hA]
    · simp [hA, hB]

/-- Settles O26: the two fills of start, and the state `started` that is left. -/
theorem showStartsTransfer : Obligations.ShowStartsTransfer := by
  intro s hn hr
  have hH : s.halfLen = 8 * s.bpp := rfl
  have hL : s.bufLen = 16 * s.bpp := rfl
  refine ⟨_, exec_showCmd_of_ready hn hr, rfl, fun e he => ?_, fun j hj k hk => ?_, fun e he => ?_⟩
  · rw [dmaRead_retire, dmaRead_started hn, if_pos he]
  · rw [dmaRead_retire, dmaRead_started hn, if_neg (by omega), if_pos (by omega),
      show s.halfLen + 8 * j + k - s.halfLen = 8 * j + k by omega, encodeRecord_getElem? s 0 j k hj hk, Nat.zero_add]
    rfl
  · rw [dmaRead_retire, dmaRead_started hn, if_neg (by omega), if_neg (by omega)]

/-! ### What a command may write -/

/-- A command other than SHOW: the state it leaves is the one before, beside the four fields it may write
(60_exceptions.md R213). -/
theorem exec_foreground_frame {s t : State} {i : Instr} (hc : i.context = .foreground) (hs : i ≠ .showCmd)
    (h : exec i s = .next t) :
    t = { s with fb := t.fb, brightness := t.brightness, returned := t.returned, prog := t.prog } := by
  cases i with
  | showCmd => exact absurd rfl hs
  | ht => cases hc
  | tc => cases hc
  | err => cases hc
  | clearCmd =>
    rcases Bool.eq_false_or_eq_true s.ready with hr | hr
    · rw [exec_clearCmd_of_ready hr] at h; cases h; rfl
    · rw [exec_clearCmd_of_busy hr] at h; cases h; rfl
  | waitCmd =>
    rcases Bool.eq_false_or_eq_true s.ready with hr | hr
    · rw [exec_waitCmd_of_ready hr] at h; cases h; rfl
    · rw [exec_waitCmd_of_busy hr] at h; cases h; rfl
  | setPix n color =>
    rcases Nat.lt_or_ge n.toNat s.n.toNat with hin | hout
    · rcases Bool.eq_false_or_eq_true (s.cursorWaitDone n.toNat) with hw | hw
      · rw [exec_setPix_of_done color hin hw, storePixel_frame] at h; cases h; rfl
      · rw [exec_setPix_of_waiting color hin hw] at h; cases h; rfl
    · rw [exec_setPix_of_outOfRange color hout] at h; cases h; rfl
  | getPix n =>
    rcases Nat.lt_or_ge n.toNat s.n.toNat with hin | hout
    · rw [exec_getPix_of_inRange hin] at h; cases h; rfl
    · rw [exec_getPix_of_outOfRange hout] at h; cases h; rfl
  | setBri data =>
    rcases Nat.lt_or_ge 255 data.toNat with hlarge | hle
    · rw [exec_setBri_of_large hlarge] at h; cases h; rfl
    · obtain ⟨b, hb⟩ := exists_byte_of_le hle
      by_cases hne : b = s.brightness
      · rw [exec_setBri_of_current (hb.trans (congrArg _ hne))] at h; cases h; rfl
      · rcases Bool.eq_false_or_eq_true s.ready with hr | hr
        · rw [exec_setBri_of_ready hb hne hr] at h; cases h; rfl
        · rw [exec_setBri_of_busy hb hne hr] at h; cases h; rfl

/-- Settles O49. -/
theorem foregroundContextWrites : Obligations.ForegroundContextWrites := fun _ _ _ => exec_foreground_frame

end Sys2Proof.Machine
end

section
/-! PROOFS. The families 20_memory.md section 4 and 60_exceptions.md section 4: a command is its accesses made one after
the other. Each of the model's loops is a run of accesses, and each command is made of such loops. -/

namespace Sys2Proof.Machine

/-! ### Loops of accesses -/

theorem Memory.writeRun_append {w : Nat} (vs ws : List (BitVec w)) (m : Memory w) (a : Nat) :
    Memory.writeRun m a (vs ++ ws) = Memory.writeRun (Memory.writeRun m a vs) (a + vs.length) ws := by
  induction vs generalizing m a with
  | nil => rfl
  | cons v vs ih => rw [List.cons_append, Memory.writeRun, ih, List.length_cons, Memory.writeRun,
      Nat.add_right_comm, Nat.add_assoc]

theorem Memory.writeRun_concat {w : Nat} (vs : List (BitVec w)) (v : BitVec w) (m : Memory w) (a : Nat) :
    Memory.writeRun m a (vs ++ [v]) = Memory.set (Memory.writeRun m a vs) (a + vs.length) v :=
  Memory.writeRun_append vs [v] m a

/-- A loop whose k-th access is `DMA[b + k] <- g k`, whatever the DMA buffer holds by then, writes the run of the `g k`. -/
theorem performAll_dmaLoop {s : State} {b : Nat} {f : Nat → Access} {g : Nat → Duty}
    (hf : ∀ m k, ({ s with dma := m } : State).perform (f k) = { s with dma := Memory.set m (b + k) (g k) }) (n : Nat) :
    s.performAll ((List.range n).map f) = { s with dma := Memory.writeRun s.dma b ((List.range n).map g) } := by
  induction n with
  | zero => rfl
  | succ n ih =>
    rw [List.range_succ, List.map_append, performAll_append, ih, List.map_append]
    simp only [List.map_cons, List.map_nil, performAll_cons, performAll_nil, hf, Memory.writeRun_concat,
      List.length_map, List.length_range]

/-- zeroHalf is a loop of accesses (41_bitstream_encoder.md R134). -/
theorem performAll_zeroEntries (s : State) (b n : Nat) :
    s.performAll ((List.range n).map (fun e => .zeroEntry (b + e))) =
      { s with dma := Memory.writeRun s.dma b (List.replicate n 0) } := by
  rw [performAll_dmaLoop (g := fun _ => 0) (fun _ _ => rfl), List.map_const', List.length_range]

/-- The loop over the bits of the byte read last writes that byte encoded (41_bitstream_encoder.md R135). -/
theorem performAll_storeBits (s : State) (b : Nat) :
    s.performAll ((List.range 8).map (fun k => .storeBit (b + k) k)) =
      { s with dma := Memory.writeRun s.dma b (s.encodeByte s.lastLoaded) } :=
  performAll_dmaLoop (g := fun k => s.lut (s.lastLoaded.getLsbD (7 - k))) (fun _ _ => rfl) 8

/-- Reading one byte and then writing its eight duties. -/
theorem performAll_encodeOneByte (s : State) (a b : Nat) :
    s.performAll (.loadFb a :: (List.range 8).map (fun k => .storeBit (b + k) k)) =
      { s with
        dma := Memory.writeRun s.dma b (s.encodeByte (s.fbRead a))
        loaded := s.loaded ++ [s.fbRead a] } := by
  rw [performAll_cons, performAll_storeBits, State.lastLoaded]
  simp only [State.perform, List.getLastD_concat]
  rfl

/-- The loop over the bytes of the record at address 0 writes the record encoded, and keeps the bytes read. -/
theorem performAll_recordLoop (s : State) (b n : Nat) :
    s.performAll ((List.range n).flatMap (fun j =>
        .loadFb j :: (List.range 8).map (fun k => .storeBit (b + 8 * j + k) k))) =
      { s with
        dma := Memory.writeRun s.dma b ((List.range n).flatMap (fun j => s.encodeByte (s.fbRead j)))
        loaded := s.loaded ++ (List.range n).map s.fbRead } := by
  induction n with
  | zero => simp [Memory.writeRun]
  | succ n ih =>
    rw [List.range_succ (n := n), List.flatMap_append, performAll_append, ih, List.flatMap_append,
      Memory.writeRun_append, List.map_append, ← List.append_assoc]
    simp only [List.flatMap_singleton, performAll_encodeOneByte, List.length_flatMap, encodeByte_length,
      List.map_const', List.sum_replicate, List.length_range, smul_eq_mul, Nat.mul_comm n 8]
    rfl

/-- The state start's accesses leave when only the arming of the engine is left (42_scheduler.md R144). -/
def State.primed (s : State) : State :=
  { s with
    dma := Memory.writeRun (Memory.writeRun s.dma 0 (List.replicate s.halfLen 0)) s.halfLen (s.encodeRecord 0)
    outIndex := BitVec.ofNat 32 s.bpp
    ready := false
    phase := .priming
    irqEn := true
    loaded := s.loaded ++ (List.range s.bpp).map s.fbRead }

theorem performAll_primingAccesses (s : State) : s.performAll s.primingAccesses = s.primed := by
  have hrecord : s.encodeRecord 0 = (List.range s.bpp).flatMap (fun j => s.encodeByte (s.fbRead j)) := by
    simp only [State.encodeRecord, Nat.zero_add]
  rw [State.primed, hrecord]
  simp only [State.primingAccesses, performAll_append, performAll_cons, performAll_nil, performAll_zeroEntries,
    performAll_recordLoop]
  rfl

theorem fbWriteAll_concat (s : State) (vs : List Byte) (v : Byte) :
    s.fbWriteAll (vs ++ [v]) = (s.fbWriteAll vs).fbWrite vs.length v := by
  simp only [State.fbWriteAll, State.fbWrite, Memory.writeRun_concat, Nat.zero_add]

/-- CLEAR's loop. -/
theorem performAll_clearStores (s : State) (n : Nat) :
    s.performAll ((List.range n).map (fun a => .storeFb a 0)) = s.fbWriteAll (List.replicate n 0) := by
  induction n with
  | zero => rfl
  | succ n ih =>
    rw [List.range_succ, List.map_append, performAll_append, ih, List.replicate_succ', fbWriteAll_concat,
      List.length_replicate]
    rfl

/-- SETPIX's stores, channel by channel. -/
theorem performAll_pixelStores (s : State) (p : Nat) (color : ColorWord) :
    s.performAll (s.pixelStores p color) = s.storePixel p color := by
  suffices h : ∀ (cs : List Channel) (t : State), (∀ c, t.chanAddr p c = s.chanAddr p c) →
      t.performAll (cs.filterMap (fun c => (s.chanAddr p c).map (fun a => .storeScaled a (channelOf color c)))) =
        cs.foldl (fun u c => u.storeChannel p c (channelOf color c)) t from h _ s fun _ => rfl
  intro cs
  induction cs with
  | nil => exact fun _ _ => rfl
  | cons c cs ih =>
    intro t ht
    have hstep := ih (t.storeChannel p c (channelOf color c)) fun c' => (storeChannel_chanAddr ..).trans (ht c')
    rw [List.foldl_cons, ← hstep]
    cases ha : s.chanAddr p c with
    | none => simp only [List.filterMap_cons, ha, Option.map_none, State.storeChannel, (ht c).trans ha]
    | some a =>
      simp only [List.filterMap_cons, ha, Option.map_some, State.storeChannel, (ht c).trans ha, performAll_cons,
        State.perform]

/-- Reads only add to the local bytes. -/
theorem performAll_loads (s : State) (as : List Nat) :
    s.performAll (as.map .loadFb) = { s with loaded := s.loaded ++ as.map s.fbRead } := by
  induction as generalizing s with
  | nil => simp
  | cons a as ih =>
    rw [List.map_cons, performAll_cons, ih]
    simp only [State.perform, List.append_assoc, List.map_cons, List.singleton_append]
    rfl

/-- The addresses of a pixel's channels, R, G, B and then W where the strip has one. -/
def State.pixelAddrs (s : State) (p : Nat) : List Nat := [Channel.r, .g, .b, .w].filterMap (s.chanAddr p)

theorem pixelLoads_eq_map (s : State) (p : Nat) : s.pixelLoads p = (s.pixelAddrs p).map .loadFb := by
  simp only [State.pixelLoads, State.pixelAddrs, List.map_filterMap]

/-- From no local bytes, the colour of the bytes read is the pixel read back. -/
theorem loadedColour_of_pixelAddrs {s : State} (p : Nat) :
    ({ s with loaded := (s.pixelAddrs p).map s.fbRead } : State).loadedColour = s.loadPixel p := by
  obtain ⟨r, hr⟩ := Option.isSome_iff_exists.mp (chanAddr_isSome_r s p)
  obtain ⟨g, hg⟩ := Option.isSome_iff_exists.mp (chanAddr_isSome_g s p)
  obtain ⟨b, hb⟩ := Option.isSome_iff_exists.mp (chanAddr_isSome_b s p)
  cases hw : s.chanAddr p .w with
  | none => simp [State.pixelAddrs, State.loadedColour, State.loadPixel, State.loadChannel, hr, hg, hb, hw]
  | some w => simp [State.pixelAddrs, State.loadedColour, State.loadPixel, State.loadChannel, hr, hg, hb, hw]

/-- SETBRI's loop: each byte is read before it is written, and no byte is written before a later one is read. -/
theorem performAll_rescaleLoop {s : State} (hl : s.loaded = []) (b : Byte) (n : Nat) :
    s.performAll ((List.range n).flatMap (fun a => [.loadFb a, .storeRescaled a b])) =
      s.fbWriteAll ((List.range n).map (fun i => rescale (s.fbRead i) s.brightness b)) := by
  induction n with
  | zero => rfl
  | succ n ih =>
    have hread : (s.fbWriteAll ((List.range n).map (fun i => rescale (s.fbRead i) s.brightness b))).fbRead n =
        s.fbRead n := by
      rw [fbRead_fbWriteAll, List.getElem?_eq_none (by simp)]
      rfl
    rw [List.range_succ, List.flatMap_append, performAll_append, ih, List.map_append]
    simp only [List.flatMap_cons, List.flatMap_nil, List.append_nil, performAll_cons, performAll_nil, State.perform,
      State.fbWriteAll_loaded, hl, List.nil_append, hread, List.map_cons, List.map_nil, fbWriteAll_concat,
      List.length_map, List.length_range]
    simp only [State.fbWriteAll, State.fbWrite, State.lastLoaded, List.getLastD_cons, List.getLastD_nil, hl]

/-! ### A command is its accesses -/

/-- With no command in progress there are no accesses left and no local bytes, so ending a command is going on to the
next one. -/
theorem endCommand_of_idle {s : State} (ht : s.todo = []) (hl : s.loaded = []) : s.endCommand = s.retire := by
  obtain ⟨⟩ := s
  subst ht hl
  rfl

/-- SHOW's accesses end in the state start leaves (42_scheduler.md R144). -/
theorem endCommand_armed_of_primed {s : State} (ht : s.todo = []) (hl : s.loaded = []) (hn : s.n ≠ 0) :
    ((s.performAll s.primingAccesses).perform .startEngine).endCommand = s.started.retire := by
  rw [performAll_primingAccesses, State.started, State.primedDma, cursorEntries_of_pixel_zero hn]
  obtain ⟨⟩ := s
  subst ht hl
  rfl

/-- A command that waits makes no access, and `exec` leaves the state as it is (70_reset_and_hazards.md R246). -/
theorem exec_of_held {s : State} {i : Instr} (hc : i.context = .foreground) (h : accessesOf i s = none) :
    exec i s = .next s := by
  cases i with
  | ht => cases hc
  | tc => cases hc
  | err => cases hc
  | showCmd =>
    by_cases hn : s.n = 0
    · rw [accessesOf_showCmd_of_empty hn] at h; cases h
    · rcases Bool.eq_false_or_eq_true s.ready with hr | hr
      · rw [accessesOf_showCmd_of_ready hn hr] at h; cases h
      · exact exec_showCmd_of_busy hn hr
  | clearCmd =>
    rcases Bool.eq_false_or_eq_true s.ready with hr | hr
    · rw [accessesOf_clearCmd_of_ready hr] at h; cases h
    · exact exec_clearCmd_of_busy hr
  | waitCmd =>
    rcases Bool.eq_false_or_eq_true s.ready with hr | hr
    · rw [accessesOf_waitCmd_of_ready hr] at h; cases h
    · exact exec_waitCmd_of_busy hr
  | setPix n color =>
    rcases Nat.lt_or_ge n.toNat s.n.toNat with hin | hout
    · rcases Bool.eq_false_or_eq_true (s.cursorWaitDone n.toNat) with hw | hw
      · rw [accessesOf_setPix_of_done color hin hw] at h; cases h
      · exact exec_setPix_of_waiting color hin hw
    · rw [accessesOf_setPix_of_outOfRange color hout] at h; cases h
  | getPix n =>
    rcases Nat.lt_or_ge n.toNat s.n.toNat with hin | hout
    · rw [accessesOf_getPix_of_inRange hin] at h; cases h
    · rw [accessesOf_getPix_of_outOfRange hout] at h; cases h
  | setBri data =>
    rcases Nat.lt_or_ge 255 data.toNat with hlarge | hle
    · rw [accessesOf_setBri_of_large hlarge] at h; cases h
    · obtain ⟨b, hb⟩ := exists_byte_of_le hle
      by_cases hne : b = s.brightness
      · rw [accessesOf_setBri_of_current (hb.trans (congrArg _ hne))] at h; cases h
      · rcases Bool.eq_false_or_eq_true s.ready with hr | hr
        · rw [accessesOf_setBri_of_ready hb hne hr] at h; cases h
        · exact exec_setBri_of_busy hb hne hr

/-- A command that does not wait: `exec` is its accesses and its end (20_memory.md R64; log 4). -/
theorem exec_eq_performAll {s : State} {i : Instr} {l : List Access} (ht : s.todo = []) (hl : s.loaded = [])
    (h : accessesOf i s = some l) : exec i s = .next (s.performAll l).endCommand := by
  have hidle := endCommand_of_idle ht hl
  cases i with
  | ht => cases h
  | tc => cases h
  | err => cases h
  | showCmd =>
    by_cases hn : s.n = 0
    · rw [accessesOf_showCmd_of_empty hn] at h; cases h
      rw [exec_showCmd_of_empty hn, performAll_nil, hidle]
    · rcases Bool.eq_false_or_eq_true s.ready with hr | hr
      · rw [accessesOf_showCmd_of_ready hn hr] at h; cases h
        rw [exec_showCmd_of_ready hn hr, performAll_append, performAll_cons, performAll_nil,
          endCommand_armed_of_primed ht hl hn]
      · rw [accessesOf_showCmd_of_busy hn hr] at h; cases h
  | clearCmd =>
    rcases Bool.eq_false_or_eq_true s.ready with hr | hr
    · rw [accessesOf_clearCmd_of_ready hr] at h; cases h
      rw [exec_clearCmd_of_ready hr, performAll_clearStores]
      exact congrArg _ (endCommand_of_idle (s := s.fbWriteAll _) ht hl).symm
    · rw [accessesOf_clearCmd_of_busy hr] at h; cases h
  | waitCmd =>
    rcases Bool.eq_false_or_eq_true s.ready with hr | hr
    · rw [accessesOf_waitCmd_of_ready hr] at h; cases h
      rw [exec_waitCmd_of_ready hr, performAll_nil, hidle]
    · rw [accessesOf_waitCmd_of_busy hr] at h; cases h
  | setPix n color =>
    rcases Nat.lt_or_ge n.toNat s.n.toNat with hin | hout
    · rcases Bool.eq_false_or_eq_true (s.cursorWaitDone n.toNat) with hw | hw
      · rw [accessesOf_setPix_of_done color hin hw] at h; cases h
        rw [exec_setPix_of_done color hin hw, performAll_pixelStores, storePixel_frame]
        exact congrArg _ (endCommand_of_idle (s := { s with fb := (s.storePixel n.toNat color).fb }) ht hl).symm
      · rw [accessesOf_setPix_of_waiting color hin hw] at h; cases h
    · rw [accessesOf_setPix_of_outOfRange color hout] at h; cases h
      rw [exec_setPix_of_outOfRange color hout, performAll_nil, hidle]
  | getPix n =>
    rcases Nat.lt_or_ge n.toNat s.n.toNat with hin | hout
    · rw [accessesOf_getPix_of_inRange hin] at h; cases h
      rw [exec_getPix_of_inRange hin, performAll_append, pixelLoads_eq_map, performAll_loads, hl, List.nil_append,
        performAll_cons, performAll_nil, State.perform, loadedColour_of_pixelAddrs]
      exact congrArg _ (endCommand_of_idle (s := s.giveResult (s.loadPixel n.toNat)) ht hl).symm
    · rw [accessesOf_getPix_of_outOfRange hout] at h; cases h
      rw [exec_getPix_of_outOfRange hout, performAll_cons, performAll_nil, State.perform]
      exact congrArg _ (endCommand_of_idle (s := s.giveResult 0) ht hl).symm
  | setBri data =>
    rcases Nat.lt_or_ge 255 data.toNat with hlarge | hle
    · rw [accessesOf_setBri_of_large hlarge] at h; cases h
      rw [exec_setBri_of_large hlarge, performAll_nil, hidle]
    · obtain ⟨b, hb⟩ := exists_byte_of_le hle
      by_cases hne : b = s.brightness
      · have hcur := hb.trans (congrArg _ hne)
        rw [accessesOf_setBri_of_current hcur] at h; cases h
        rw [exec_setBri_of_current hcur, performAll_nil, hidle]
      · rcases Bool.eq_false_or_eq_true s.ready with hr | hr
        · rw [accessesOf_setBri_of_ready hb hne hr] at h; cases h
          rw [exec_setBri_of_ready hb hne hr, performAll_append, State.rescaleAccesses, performAll_rescaleLoop hl,
            performAll_cons, performAll_nil, State.perform]
          exact congrArg _ (endCommand_of_idle
            (s := { s.fbWriteAll (s.rescaledBytes b) with brightness := b }) ht hl).symm
        · rw [accessesOf_setBri_of_busy hb hne hr] at h; cases h

end Sys2Proof.Machine
end

section
/-! PROOFS. The families 30_encoding.md section 5 and 60_exceptions.md sections 3, 4 and 6: what one step is, and a command
run step by step. -/

namespace Sys2Proof.Machine

/-! ### The foreground's turns -/

theorem dueEvent_of_pend_none {s : State} (h : s.pend = none) : s.dueEvent = none := by
  unfold State.dueEvent
  rw [h]
  exact ite_self _

/-- A foreground's turn, of either kind, is its move. -/
theorem nextMove_of_foreground {s : State} {ts : List Turn} {whole : Bool} (h : s.dueEvent = none)
    (ht : s.turns = (if whole then .foreground else .access) :: ts) :
    s.nextMove = ({ s with turns := ts } : State).foregroundMove whole := by
  rw [nextMove_of_turn h ht]
  cases whole <;> rfl

/-- A command in progress goes on. -/
theorem step_of_todo {s : State} {ts : List Turn} {whole : Bool} (h : s.dueEvent = none)
    (ht : s.turns = (if whole then .foreground else .access) :: ts) (htd : s.todo ≠ []) :
    step s = .next (if whole then ({ s with turns := ts } : State).finishCommand
      else ({ s with turns := ts } : State).makeAccess) := by
  obtain ⟨a, l, hl⟩ := List.exists_cons_of_ne_nil htd
  exact step_of_nextMove_settle ((nextMove_of_foreground h ht).trans (foregroundMove_of_todo (s := { s with turns := ts }) hl whole))

/-- The current command is run whole or begun. -/
theorem step_of_word {s : State} {ts : List Turn} {whole : Bool} {w : CmdWord} {p : List CmdWord} {i : Instr}
    (h : s.dueEvent = none) (ht : s.turns = (if whole then .foreground else .access) :: ts) (htd : s.todo = [])
    (hp : s.prog = w :: p) (hw : decode w = .ok i) (hc : i.wfIn .foreground = true) :
    step s = if whole then exec i { s with turns := ts } else .next (beginCommand i { s with turns := ts }) := by
  have hmove := (nextMove_of_foreground h ht).trans (foregroundMove_of_word (s := { s with turns := ts }) htd hp hw hc whole)
  cases whole with
  | true => exact step_of_nextMove_run hmove
  | false => exact step_of_nextMove_settle hmove

theorem step_of_done {s : State} {ts : List Turn} {whole : Bool} (h : s.dueEvent = none)
    (ht : s.turns = (if whole then .foreground else .access) :: ts) (htd : s.todo = []) (hp : s.prog = []) :
    step s = .next { s with turns := ts } :=
  step_of_nextMove_settle ((nextMove_of_foreground h ht).trans (foregroundMove_of_done (s := { s with turns := ts }) htd hp whole))

theorem step_of_undecodable {s : State} {ts : List Turn} {whole : Bool} {w : CmdWord} {p : List CmdWord}
    {d : DecodeError} (h : s.dueEvent = none) (ht : s.turns = (if whole then .foreground else .access) :: ts)
    (htd : s.todo = []) (hp : s.prog = w :: p) (hw : decode w = .error d) : step s = .refused (refusalOf d) :=
  step_of_nextMove_refuse ((nextMove_of_foreground h ht).trans (foregroundMove_of_undecodable (s := { s with turns := ts }) htd hp hw whole))

theorem step_of_event_word {s : State} {ts : List Turn} {whole : Bool} {w : CmdWord} {p : List CmdWord} {i : Instr}
    (h : s.dueEvent = none) (ht : s.turns = (if whole then .foreground else .access) :: ts) (htd : s.todo = [])
    (hp : s.prog = w :: p) (hw : decode w = .ok i) (hc : i.context = .interrupt) : step s = .refused .wrongContext :=
  step_of_nextMove_refuse ((nextMove_of_foreground h ht).trans (foregroundMove_of_event_word (s := { s with turns := ts }) htd hp hw hc whole))

/-- A turn that is one of the foreground's is so by its kind. -/
theorem exists_whole {ts us : List Turn} (h : ts = .foreground :: us ∨ ts = .access :: us) :
    ∃ whole : Bool, ts = (if whole then .foreground else .access) :: us :=
  h.elim (fun h => ⟨true, h⟩) (fun h => ⟨false, h⟩)

theorem context_of_wfIn {i : Instr} {c : Context} (h : i.wfIn c = true) : i.context = c := of_decide_eq_true h

theorem wfIn_of_context {i : Instr} {c : Context} (h : i.context = c) : i.wfIn c = true := decide_eq_true h

theorem event_instr_context (e : Event) : e.instr.context = .interrupt := context_of_wfIn (event_instr_wfIn e)

/-- Settles O5. -/
theorem stepRunsCurrentCommand : Obligations.StepRunsCurrentCommand := by
  intro s ts w p i hd ht htd hp hw hc
  exact step_of_word (whole := true) hd ht htd hp hw hc

/-- Settles O6: the event that is due is the pending one, or ERR beside it. -/
theorem stepDeliversPendingEvent : Obligations.StepDeliversPendingEvent := by
  intro s e hi hp
  refine ⟨fun hne => step_of_dueEvent ((dueEvent_eq_some_iff s e).mpr ⟨hi, e, hp, (if_neg hne).symm⟩), fun hj => ?_⟩
  exact step_of_dueEvent (e := .err) ((dueEvent_eq_some_iff s .err).mpr ⟨hi, e, hp, (if_pos hj).symm⟩)

/-- Settles O7: turn by turn. -/
theorem stepOfOtherTurns : Obligations.StepOfOtherTurns := by
  intro s ts hd
  refine ⟨step_of_engine hd, step_of_hwError hd, step_of_jointError hd, fun ht htd hp => ?_, step_of_no_turn hd⟩
  obtain ⟨whole, ht⟩ := exists_whole ht
  exact step_of_done hd ht htd hp

/-- Settles O8: the three ways a word of the program has no meaning. -/
theorem stepRefusesMeaninglessWord : Obligations.StepRefusesMeaninglessWord := by
  intro s ts w p hd ht htd hp
  obtain ⟨whole, ht⟩ := exists_whole ht
  exact ⟨fun op hw => step_of_undecodable hd ht htd hp hw, fun op hw => step_of_undecodable hd ht htd hp hw,
    fun e hw => step_of_event_word hd ht htd hp hw (event_instr_context e)⟩

/-! ### One access a step -/

theorem makeAccess_of_last {s : State} {a : Access} (h : s.todo = [a]) : s.makeAccess = (s.perform a).endCommand := by
  simp only [State.makeAccess, h]

theorem makeAccess_of_more {s : State} {a b : Access} {l : List Access} (h : s.todo = a :: b :: l) :
    s.makeAccess = { s.perform a with todo := b :: l } := by
  simp only [State.makeAccess, h]

/-- Settles O58: what the access is decided by how many are left. -/
theorem stepMakesOneAccess : Obligations.StepMakesOneAccess := by
  intro s ts hd
  refine ⟨fun ht => ⟨fun a hl => ?_, fun a b l hl => ?_, fun w p i htd hp hw hc => ?_⟩, fun ht htd => ?_⟩
  · rw [step_of_todo (whole := false) hd ht (by rw [hl]; exact List.cons_ne_nil _ _)]
    exact congrArg _ (makeAccess_of_last hl)
  · rw [step_of_todo (whole := false) hd ht (by rw [hl]; exact List.cons_ne_nil _ _)]
    exact congrArg _ (makeAccess_of_more hl)
  · exact step_of_word (whole := false) hd ht htd hp hw (wfIn_of_context hc)
  · exact step_of_todo (whole := true) hd ht htd

/-! ### A command run step by step -/

theorem run_zero (s : State) : Host.Core.run core 0 s = .next s := rfl

theorem run_succ_of_step {s t : State} (h : step s = .next t) (k : Nat) :
    Host.Core.run core (k + 1) s = Host.Core.run core k t := by
  have hcore : core.step s = .next t := h
  simp only [Host.Core.run, hcore]

/-- No access makes an event pend. -/
theorem pend_perform {s : State} (h : s.pend = none) (a : Access) : (s.perform a).pend = none := by
  cases a with
  | startEngine => rfl
  | _ => exact h

theorem perform_todo_turns (s : State) (l : List Access) (ts : List Turn) (a : Access) :
    ({ s with todo := l, turns := ts } : State).perform a = { s.perform a with todo := l, turns := ts } := by
  rw [perform_turns { s with todo := l }, perform_todo]

/-- As many turns as there are accesses make them all, with nothing in between, and end the command. -/
theorem run_accesses (l : List Access) (ts : List Turn) (s : State) (hne : l ≠ []) (hp : s.pend = none) :
    Host.Core.run core l.length { s with todo := l, turns := List.replicate l.length .access ++ ts } =
      .next { (s.performAll l).endCommand with turns := ts } := by
  induction l generalizing s with
  | nil => exact absurd rfl hne
  | cons a l ih =>
    have hstep : step { s with todo := a :: l, turns := List.replicate (l.length + 1) .access ++ ts } =
        .next ({ s with todo := a :: l, turns := List.replicate l.length .access ++ ts } : State).makeAccess :=
      step_of_todo (whole := false) (dueEvent_of_pend_none hp) rfl (List.cons_ne_nil _ _)
    rw [List.length_cons, run_succ_of_step hstep, performAll_cons]
    cases l with
    | nil =>
      rw [makeAccess_of_last rfl, perform_todo_turns]
      rfl
    | cons b l =>
      rw [makeAccess_of_more rfl, ← ih (s.perform a) (List.cons_ne_nil _ _) (pend_perform hp a),
        perform_todo_turns]

/-- Beginning a command that does not wait leaves its accesses to be made; with none it is over. -/
theorem beginCommand_of_accesses {i : Instr} {s : State} {l : List Access} (h : accessesOf i s = some l) :
    beginCommand i s = if l = [] then s.endCommand else { s with todo := l } := by
  unfold beginCommand
  rw [h]
  cases l <;> rfl

theorem beginCommand_of_held {i : Instr} {s : State} (h : accessesOf i s = none) : beginCommand i s = s := by
  unfold beginCommand
  rw [h]

/-- The accesses of a command depend neither on the program nor on the schedule. -/
theorem accessesOf_withProgTurns (i : Instr) (s : State) (p : List CmdWord) (ts : List Turn) :
    accessesOf i { s with prog := p, turns := ts } = accessesOf i s := by
  cases i <;> rfl

/-- One turn to begin a command and one for each of its accesses: the whole command. -/
theorem run_command {s : State} {i : Instr} {l : List Access} {p : List CmdWord} (ts : List Turn)
    (hc : i.context = .foreground) (ht : s.todo = []) (hpend : s.pend = none) (hprog : s.prog = encode i :: p)
    (h : accessesOf i s = some l) :
    Host.Core.run core (l.length + 1) { s with turns := List.replicate (l.length + 1) .access ++ ts } =
      .next { (s.performAll l).endCommand with turns := ts } := by
  have hbegin := step_of_word (whole := false) (ts := List.replicate l.length .access ++ ts)
    (s := { s with turns := List.replicate (l.length + 1) .access ++ ts }) (dueEvent_of_pend_none hpend) rfl ht hprog
    (decodeOfEncodeGivesBack i) (wfIn_of_context hc)
  rw [run_succ_of_step hbegin,
    beginCommand_of_accesses ((accessesOf_withProgTurns i s s.prog _).trans h)]
  split
  · next hl => subst hl; rfl
  · next hl => exact run_accesses l ts s hl hpend

/-- Settles O59: held or made of its accesses whole (`exec_of_held`, `exec_eq_performAll`), and the same step by step
(`run_command`). -/
theorem commandIsItsAccesses : Obligations.CommandIsItsAccesses := by
  intro s i hc ht hl
  refine ⟨exec_of_held hc, fun l h => ⟨exec_eq_performAll ht hl h, fun p ts hp => ?_⟩⟩
  have hacc : ∀ ts, accessesOf i { s with prog := encode i :: p, turns := ts } = some l := fun ts =>
    (accessesOf_withProgTurns i s _ ts).trans h
  rw [exec_eq_performAll (s := { s with prog := encode i :: p, turns := ts }) ht hl (hacc ts),
    performAll_turns { s with prog := encode i :: p }]
  exact run_command (s := { s with prog := encode i :: p }) ts hc ht hp rfl (hacc s.turns)

end Sys2Proof.Machine
end

section
/-! PROOFS. The families 42_scheduler.md sections 3 to 5 and 60_exceptions.md sections 3 and 7: what each event answers. -/

namespace Sys2Proof.Machine

/-! ### The states the three handlers leave -/

/-- The cursor after one fillUnit (41_bitstream_encoder.md R135). -/
def State.advancedCursor (s : State) : BitVec 32 := s.outIndex + BitVec.ofNat 32 s.bpp

/-- A handler's refill that does not complete the transfer: the unit at the cursor in half `h`, the cursor advanced, the
phase set (42_scheduler.md R146, R148). -/
def State.refilled (s : State) (h : Half) : State :=
  { s with
    dma := (s.fillHalf h s.cursorEntries).dma
    outIndex := s.advancedCursor
    phase := if s.n.toNat * s.bpp < s.advancedCursor.toNat then .draining else .streaming
    pend := none }

/-- The refill of half B that completes the transfer (42_scheduler.md R148). -/
def State.completed (s : State) : State :=
  { s with
    dma := (s.fillHalf .b s.cursorEntries).dma
    outIndex := s.advancedCursor
    irqEn := false
    hwRun := false
    phase := .complete
    ready := true
    pend := none
    outputs := s.outputs ++ [.stopPwmDma] }

/-- ERR: the transfer aborted in place (42_scheduler.md R150). -/
def State.aborted (s : State) : State :=
  { s with
    irqEn := false
    hwRun := false
    ready := true
    phase := .idle
    pend := none
    outputs := s.outputs ++ [.stopPwmDma] }

/-- What TC leaves. -/
def State.afterTc (s : State) : State :=
  if (s.n.toNat + 2) * s.bpp ≤ s.advancedCursor.toNat then s.completed else s.refilled .b

theorem afterTc_of_full {s : State} (h : (s.n.toNat + 2) * s.bpp ≤ s.advancedCursor.toNat) :
    s.afterTc = s.completed := if_pos h

theorem afterTc_of_short {s : State} (h : ¬(s.n.toNat + 2) * s.bpp ≤ s.advancedCursor.toNat) :
    s.afterTc = s.refilled .b := if_neg h

/-- What the handler of an event leaves. -/
def State.afterEvent (s : State) : Event → State
  | .ht  => s.refilled .a
  | .tc  => s.afterTc
  | .err => s.aborted

/-- An event's handler may fault: HT's and TC's, at a cursor that is no multiple of bpp. -/
def State.mayFault (s : State) (e : Event) : Bool := decide (e ≠ .err) && s.recordPassesEnd

theorem exec_ht_of_enabled {s : State} (he : s.eventEnabled .ht = true) (hf : s.recordPassesEnd = false) :
    exec .ht s = .next (s.refilled .a) := by
  simp only [exec, execHt, takeEvent, he, if_true, htHandler, fillUnit_eq, hf, Bool.false_eq_true, if_false]
  rfl

theorem exec_tc_of_enabled {s : State} (he : s.eventEnabled .tc = true) (hf : s.recordPassesEnd = false) :
    exec .tc s = .next s.afterTc := by
  simp only [exec, execTc, takeEvent, he, if_true, tcHandler, fillUnit_eq, hf, Bool.false_eq_true, if_false,
    State.allQueued, decide_eq_true_eq, State.afterTc]
  congr 1
  split
  · next h => exact (if_pos (show (s.n.toNat + 2) * s.bpp ≤ s.advancedCursor.toNat from h)).symm
  · next h => exact (if_neg (show ¬(s.n.toNat + 2) * s.bpp ≤ s.advancedCursor.toNat from h)).symm

theorem exec_err_of_enabled {s : State} (he : s.eventEnabled .err = true) : exec .err s = .next s.aborted := by
  simp only [exec, execErr, takeEvent, he, if_true, errHandler]
  rfl

/-- An event that is enabled, at a cursor from which its refill can be made, does what its handler says. -/
theorem exec_event_of_enabled {s : State} {e : Event} (he : s.eventEnabled e = true) (hf : s.mayFault e = false) :
    exec e.instr s = .next (s.afterEvent e) := by
  cases e with
  | ht => exact exec_ht_of_enabled he hf
  | tc => exact exec_tc_of_enabled he hf
  | err => exact exec_err_of_enabled he

/-- An event that is not enabled is refused (60_exceptions.md R199). -/
theorem exec_event_of_disabled {s : State} {e : Event} (he : s.eventEnabled e = false) :
    exec e.instr s = .refused (.spuriousEvent e) := by
  cases e <;> exact if_neg (by rw [he]; exact Bool.false_ne_true)

/-- At a cursor that is no multiple of bpp HT and TC fault. -/
theorem exec_event_of_fault {s : State} {e : Event} (he : s.eventEnabled e = true) (hf : s.mayFault e = true) :
    exec e.instr s = .fault (.fbAddress s.fbSize) := by
  obtain ⟨hne, hpass⟩ := Bool.and_eq_true_iff.mp hf
  cases e with
  | ht => simp only [Event.instr, exec, execHt, takeEvent, he, if_true, htHandler, fillUnit_eq, hpass]
  | tc => simp only [Event.instr, exec, execTc, takeEvent, he, if_true, tcHandler, fillUnit_eq, hpass]
  | err => exact absurd rfl (of_decide_eq_true hne)

/-- Everything an event can answer that goes on. -/
theorem exec_event_next_iff {s t : State} {e : Event} :
    exec e.instr s = .next t ↔ s.eventEnabled e = true ∧ s.mayFault e = false ∧ t = s.afterEvent e := by
  rcases Bool.eq_false_or_eq_true (s.eventEnabled e) with he | he
  · rcases Bool.eq_false_or_eq_true (s.mayFault e) with hf | hf
    · simp [exec_event_of_fault he hf, hf]
    · simp [exec_event_of_enabled he hf, he, hf, eq_comm]
  · simp [exec_event_of_disabled he, he]

theorem mayFault_of_aligned {s : State} (h : s.outIndex.toNat % s.bpp = 0) (e : Event) : s.mayFault e = false := by
  rw [State.mayFault, recordPassesEnd_of_aligned s h, Bool.and_false]

/-! ### When an event is enabled -/

theorem eventEnabled_of_pend {s : State} {e : Event} (hi : s.irqEn = true) (hp : s.pend = some e) :
    s.eventEnabled e = true := (eventEnabled_iff s e).mpr ⟨hi, .inl hp⟩

theorem eventEnabled_of_irqEn_false {s : State} (h : s.irqEn = false) (e : Event) : s.eventEnabled e = false :=
  Bool.eq_false_iff.mpr fun he => by
    rw [((eventEnabled_iff s e).mp he).1] at h
    cases h

theorem eventEnabled_of_pend_none {s : State} (h : s.pend = none) (e : Event) : s.eventEnabled e = false :=
  Bool.eq_false_iff.mpr fun he => by
    rcases ((eventEnabled_iff s e).mp he).2 with hp | ⟨-, hp⟩
    · rw [h] at hp; cases hp
    · exact hp h

theorem eventEnabled_of_other {s : State} {e : Event} (he : e ≠ .err) (hp : s.pend ≠ some e) :
    s.eventEnabled e = false :=
  Bool.eq_false_iff.mpr fun h => ((eventEnabled_iff s e).mp h).2.elim hp fun h => he h.1

/-! ### The statements on the events -/

/-- An event with events off gives no next state. -/
theorem exec_event_ne_next_of_disabled {s : State} {e : Event} (h : s.eventEnabled e = false) (t : State) :
    exec e.instr s ≠ .next t := by
  rw [exec_event_of_disabled h]
  exact fun h => by cases h

theorem holdsUnit_refilled (s : State) (h : Half) :
    HalfHoldsUnit s (s.refilled h) h ∧ OutsideHalfSame s (s.refilled h) h := holdsUnit_of_fillHalf rfl rfl

theorem holdsUnit_afterTc (s : State) : HalfHoldsUnit s s.afterTc .b ∧ OutsideHalfSame s s.afterTc .b := by
  unfold State.afterTc
  split
  · exact holdsUnit_of_fillHalf rfl rfl
  · exact holdsUnit_refilled s .b

/-- Settles O21. -/
theorem htRefillsFirstHalf : Obligations.HtRefillsFirstHalf := by
  intro s
  refine ⟨fun hi hp ha => ⟨s.refilled .a, ?_, rfl, holdsUnit_refilled s .a⟩, fun hi => ?_⟩
  · exact exec_ht_of_enabled (eventEnabled_of_pend hi hp) (recordPassesEnd_of_aligned s ha)
  · exact exec_event_ne_next_of_disabled (e := .ht) (eventEnabled_of_irqEn_false hi .ht)

/-- Settles O22: the two outcomes are the two branches of `afterTc`. -/
theorem tcRefillsSecondHalfOrCompletes : Obligations.TcRefillsSecondHalfOrCompletes := by
  intro s
  refine ⟨fun hi hp ha => ⟨s.afterTc, ?_, (holdsUnit_afterTc s).1, (holdsUnit_afterTc s).2, fun hc => ?_, fun hc => ?_⟩,
    fun hi => ?_⟩
  · exact exec_tc_of_enabled (eventEnabled_of_pend hi hp) (recordPassesEnd_of_aligned s ha)
  · rw [afterTc_of_full hc]
    rfl
  · rw [afterTc_of_short (Nat.not_le_of_lt hc)]
    rfl
  · exact exec_event_ne_next_of_disabled (e := .tc) (eventEnabled_of_irqEn_false hi .tc)

/-- Settles O23. -/
theorem errAbortsInPlace : Obligations.ErrAbortsInPlace := by
  refine fun s => ⟨fun hi hp => ?_, fun h => ?_⟩
  · exact exec_err_of_enabled ((eventEnabled_iff s .err).mpr ⟨hi, .inr ⟨rfl, hp⟩⟩)
  · rcases h with hi | hp
    · exact exec_event_ne_next_of_disabled (e := .err) (eventEnabled_of_irqEn_false hi .err)
    · exact exec_event_ne_next_of_disabled (e := .err) (eventEnabled_of_pend_none hp .err)

/-- In a state with the invariant no event is enabled while the phase is Idle or Complete, nor inside start. -/
theorem State.Inv.eventEnabled_false {s : State} (h : s.Inv)
    (hp : s.phase = .idle ∨ s.phase = .complete ∨ s.inStart = true) (e : Event) : s.eventEnabled e = false := by
  rcases Bool.eq_false_or_eq_true s.inStart with hs | hs
  · exact eventEnabled_of_pend_none (h.stopped_of_inStart hs).2 e
  · rcases (h.labelled hs).row with ⟨-, -, -, hi⟩ | ⟨hph, -⟩ | ⟨hph, -⟩ | ⟨-, -, -, hi⟩
    · exact eventEnabled_of_irqEn_false hi e
    · simp [hph, hs] at hp
    · simp [hph, hs] at hp
    · exact eventEnabled_of_irqEn_false hi e

/-- Settles O24. -/
theorem disabledEventIsRefused : Obligations.DisabledEventIsRefused := fun _ e =>
  ⟨fun hi => exec_event_of_disabled (eventEnabled_of_irqEn_false hi e),
    fun hp => exec_event_of_disabled (eventEnabled_of_pend_none hp e),
    fun he hp => exec_event_of_disabled (eventEnabled_of_other he hp),
    fun hinv hp => exec_event_of_disabled (hinv.eventEnabled_false hp e)⟩

theorem looksAborted_iff (s : State) :
    s.looksAborted = true ↔ s.ready = true ∧ s.outIndex.toNat < (s.n.toNat + 2) * s.bpp := by
  rw [State.looksAborted, Bool.and_eq_true, Bool.not_eq_true', Bool.eq_false_iff, Ne, allQueued_iff, Nat.not_le]

/-- Settles O25: ERR makes the strip ready and keeps the cursor; TC completes only past full length. -/
theorem abortTestTellsAbortFromCompletion : Obligations.AbortTestTellsAbortFromCompletion := by
  refine fun s t => ⟨fun h => ?_, fun h hphase => ?_⟩
  · obtain ⟨-, -, rfl⟩ := (exec_event_next_iff (e := .err)).mp h
    exact (looksAborted_iff _).trans ⟨fun h => h.2, fun h => ⟨rfl, h⟩⟩
  · obtain ⟨-, -, rfl⟩ := (exec_event_next_iff (e := .tc)).mp h
    simp only [State.afterEvent, State.afterTc] at hphase ⊢
    by_cases hc : (s.n.toNat + 2) * s.bpp ≤ s.advancedCursor.toNat
    · rw [if_pos hc]
      exact Bool.eq_false_iff.mpr fun hab => Nat.not_lt_of_le hc ((looksAborted_iff _).mp hab).2
    · rw [if_neg hc] at hphase
      simp only [State.refilled] at hphase
      split at hphase <;> cases hphase

theorem afterEvent_frame (s : State) (e : Event) :
    s.afterEvent e = { s with
      dma := (s.afterEvent e).dma
      outIndex := (s.afterEvent e).outIndex
      ready := (s.afterEvent e).ready
      phase := (s.afterEvent e).phase
      irqEn := (s.afterEvent e).irqEn
      hwRun := (s.afterEvent e).hwRun
      pend := (s.afterEvent e).pend
      outputs := (s.afterEvent e).outputs } := by
  cases e with
  | ht => rfl
  | err => rfl
  | tc =>
    simp only [State.afterEvent, State.afterTc]
    split <;> rfl

/-- Settles O48. -/
theorem interruptContextWrites : Obligations.InterruptContextWrites := by
  intro s t e h
  obtain ⟨-, -, rfl⟩ := exec_event_next_iff.mp h
  exact afterEvent_frame s e

end Sys2Proof.Machine
end

section
/-! PROOFS. The families 60_exceptions.md sections 5 and 6, 10_state.md sections 2 and 6 and 70_reset_and_hazards.md section
1: the engine, the wire, the configuration, and construction. -/

namespace Sys2Proof.Machine

/-! ### Sizes of the DMA buffer -/

theorem bufLen_le (s : State) : s.bufLen ≤ 64 := by
  unfold State.bufLen
  rcases bpp_three_or_four s with h | h <;> omega

theorem bufLen_eq (s : State) : s.bufLen = s.halfLen + s.halfLen := by
  unfold State.bufLen State.halfLen
  omega

theorem halfLen_pos (s : State) : 0 < s.halfLen := by
  have hb := bpp_pos s
  unfold State.halfLen
  omega

/-! ### The engine step (60_exceptions.md R206) -/

/-- What an enabled engine step leaves. -/
def State.afterEngine (s : State) : State :=
  { s with
    wire := s.wire ++ [s.dmaRead s.rp.toNat]
    rp := if s.rp.toNat + 1 = s.bufLen then 0 else BitVec.ofNat 6 (s.rp.toNat + 1)
    pend := if s.rp.toNat + 1 = s.bufLen then some .tc
            else if s.rp.toNat + 1 = s.halfLen then some .ht else none }

theorem engineStep_of_enabled {s : State} (hr : s.hwRun = true) (hp : s.pend = none) (hlt : s.rp.toNat < s.bufLen) :
    engineStep s = .next s.afterEngine := by
  have hen : (s.hwRun && decide (s.pend = none)) = true := by simp [hr, hp]
  simp only [engineStep, hen, if_true, if_neg (Nat.not_lt_of_le hlt), State.afterEngine]
  split
  · rfl
  · split
    · rfl
    · rw [hp]

theorem engineStep_of_disabled {s : State} (h : ¬(s.hwRun = true ∧ s.pend = none)) : engineStep s = .next s :=
  if_neg (by simpa using h)

/-- Everything an engine step can answer that goes on. -/
theorem engineStep_eq_or_afterEngine {s t : State} (h : engineStep s = .next t) :
    t = s ∨ s.hwRun = true ∧ s.pend = none ∧ s.rp.toNat < s.bufLen ∧ t = s.afterEngine :=
  (engineStep_next_cases h).imp_left And.left

theorem afterEngine_rp_toNat {s : State} (hlt : s.rp.toNat < s.bufLen) :
    s.afterEngine.rp.toNat = if s.rp.toNat + 1 = s.bufLen then 0 else s.rp.toNat + 1 := by
  have hbuf := bufLen_le s
  simp only [State.afterEngine]
  split
  · rfl
  · rw [BitVec.toNat_ofNat, Nat.mod_eq_of_lt (by omega)]

/-- Settles O38: enabled, the step is `afterEngine`, H and L being different entries; else it changes nothing. -/
theorem engineStepPutsOutOneEntry : Obligations.EngineStepPutsOutOneEntry := by
  refine fun s => ⟨fun hr hp hlt => ⟨_, engineStep_of_enabled hr hp hlt, rfl, afterEngine_rp_toNat hlt, ?_⟩, fun h => ?_⟩
  · have hH := halfLen_pos s
    have hL := bufLen_eq s
    by_cases hhalf : s.rp.toNat + 1 = s.halfLen
    · simp only [State.afterEngine, if_neg (show ¬s.rp.toNat + 1 = s.bufLen by omega), if_pos hhalf]
      exact (if_pos hhalf).symm
    · simp only [State.afterEngine, if_neg hhalf]
      exact (if_neg hhalf).symm
  · refine engineStep_of_disabled fun hen => ?_
    rcases h with hr | hp
    · rw [hen.1] at hr; cases hr
    · exact hp hen.2

/-- Settles O39. -/
theorem errorIsRaisedOnlyWhileRunning : Obligations.ErrorIsRaisedOnlyWhileRunning := by
  refine fun s => ⟨fun ⟨hr, hi, hp⟩ => if_pos (by simp [hr, hi, hp]), fun h => if_neg fun hc => h ?_⟩
  simpa [and_assoc] using hc

/-- Settles O40. -/
theorem outputLineLevel : Obligations.OutputLineLevel := by
  refine fun s count => ⟨fun hr => ?_, fun hr => ?_, fun hd => ?_⟩
  · rw [State.lineHigh, hr, Bool.false_and]
  · rw [State.lineHigh, hr, Bool.true_and, entryHigh, decide_eq_true_eq]
  · rw [State.lineHigh, hd]
    exact Bool.and_false _

/-! ### What no step changes, and what only the engine does -/

/-- `t` has the configuration of `s` (10_state.md R21 to R23; the power-up number beside them, log 3). -/
structure State.SameConfig (s t : State) : Prop where
  n        : t.n = s.n
  layout   : t.layout = s.layout
  zeroDuty : t.zeroDuty = s.zeroDuty
  oneDuty  : t.oneDuty = s.oneDuty
  powerUp  : t.powerUp = s.powerUp

theorem State.SameConfig.refl (s : State) : s.SameConfig s := ⟨rfl, rfl, rfl, rfl, rfl⟩

theorem State.SameConfig.trans {s t u : State} (h : s.SameConfig t) (h' : t.SameConfig u) : s.SameConfig u :=
  ⟨h'.n.trans h.n, h'.layout.trans h.layout, h'.zeroDuty.trans h.zeroDuty, h'.oneDuty.trans h.oneDuty,
    h'.powerUp.trans h.powerUp⟩

theorem State.SameConfig.bpp {s t : State} (h : s.SameConfig t) : t.bpp = s.bpp := by
  rw [State.bpp, h.layout]
  rfl

theorem perform_sameConfig (s : State) (a : Access) : s.SameConfig (s.perform a) := by
  rw [perform_frame]
  exact ⟨rfl, rfl, rfl, rfl, rfl⟩

theorem perform_wire (s : State) (a : Access) : (s.perform a).wire = s.wire := by
  rw [perform_frame]

theorem performAll_sameConfig (s : State) (l : List Access) : s.SameConfig (s.performAll l) := by
  induction l generalizing s with
  | nil => exact .refl s
  | cons a l ih => exact (perform_sameConfig s a).trans (ih _)

theorem performAll_wire (s : State) (l : List Access) : (s.performAll l).wire = s.wire := by
  induction l generalizing s with
  | nil => rfl
  | cons a l ih => exact (ih _).trans (perform_wire s a)

theorem perform_prog (s : State) (a : Access) : (s.perform a).prog = s.prog := by
  rw [perform_frame]

theorem performAll_prog (s : State) (l : List Access) : (s.performAll l).prog = s.prog := by
  induction l generalizing s with
  | nil => rfl
  | cons a l ih => exact (ih _).trans (perform_prog s a)

/-- What SHOW answers, whatever its tests give. -/
theorem exec_showCmd_cases {s t : State} (h : exec .showCmd s = .next t) :
    t = s.retire ∨ t = s ∨ t = s.started.retire := by
  by_cases hn : s.n = 0
  · rw [exec_showCmd_of_empty hn] at h; cases h; exact .inl rfl
  · rcases Bool.eq_false_or_eq_true s.ready with hr | hr
    · rw [exec_showCmd_of_ready hn hr] at h; cases h; exact .inr (.inr rfl)
    · rw [exec_showCmd_of_busy hn hr] at h; cases h; exact .inr (.inl rfl)

/-- No foreground command writes the configuration or the wire. -/
theorem exec_foreground_keeps {s t : State} {i : Instr} (hc : i.context = .foreground) (h : exec i s = .next t) :
    s.SameConfig t ∧ t.wire = s.wire := by
  by_cases hs : i = .showCmd
  · subst hs
    rcases exec_showCmd_cases h with rfl | rfl | rfl <;> exact ⟨⟨rfl, rfl, rfl, rfl, rfl⟩, rfl⟩
  · rw [exec_foreground_frame hc hs h]
    exact ⟨⟨rfl, rfl, rfl, rfl, rfl⟩, rfl⟩

/-- Neither does a command of which one access or all that are left are made. -/
theorem goesOn_keeps {s t : State} {a : Access} {l : List Access} {whole : Bool} (ht : s.todo = a :: l)
    (h : t = if whole then s.finishCommand else s.makeAccess) : s.SameConfig t ∧ t.wire = s.wire := by
  subst h
  cases whole with
  | true => exact ⟨(performAll_sameConfig s s.todo).trans ⟨rfl, rfl, rfl, rfl, rfl⟩, performAll_wire s s.todo⟩
  | false =>
    cases l with
    | nil =>
      simp only [Bool.false_eq_true, if_false, makeAccess_of_last ht]
      exact ⟨(perform_sameConfig s a).trans ⟨rfl, rfl, rfl, rfl, rfl⟩, perform_wire s a⟩
    | cons b l =>
      simp only [Bool.false_eq_true, if_false, makeAccess_of_more ht]
      exact ⟨(perform_sameConfig s a).trans ⟨rfl, rfl, rfl, rfl, rfl⟩, perform_wire s a⟩

theorem beginCommand_keeps (i : Instr) (s : State) :
    s.SameConfig (beginCommand i s) ∧ (beginCommand i s).wire = s.wire := by
  cases h : accessesOf i s with
  | none =>
    rw [beginCommand_of_held h]
    exact ⟨.refl s, rfl⟩
  | some l =>
    rw [beginCommand_of_accesses h]
    split <;> exact ⟨⟨rfl, rfl, rfl, rfl, rfl⟩, rfl⟩

/-- So does no turn of the foreground's. -/
theorem foregroundCase_keeps {s t : State} {whole : Bool} (h : ForegroundCase s t whole) :
    s.SameConfig t ∧ t.wire = s.wire := by
  cases h with
  | goesOn a l ht h => exact goesOn_keeps ht h
  | done ht hp h => subst h; exact ⟨.refl t, rfl⟩
  | runs hw w p i ht hp hd hc h => exact exec_foreground_keeps hc h
  | begins hw w p i ht hp hd hc h => subst h; exact beginCommand_keeps i s

theorem reportError_keeps (s : State) : s.SameConfig (reportError s) ∧ (reportError s).wire = s.wire := by
  unfold reportError
  split <;> exact ⟨⟨rfl, rfl, rfl, rfl, rfl⟩, rfl⟩

theorem exec_event_keeps {s t : State} {e : Event} (h : exec e.instr s = .next t) :
    s.SameConfig t ∧ t.wire = s.wire := by
  obtain ⟨-, -, rfl⟩ := exec_event_next_iff.mp h
  rw [afterEvent_frame]
  exact ⟨⟨rfl, rfl, rfl, rfl, rfl⟩, rfl⟩

/-- Every step keeps the configuration, and every step but the engine's keeps the wire. -/
theorem step_keeps {s t : State} (h : step s = .next t) :
    s.SameConfig t ∧ (t.wire = s.wire ∨ s.hwRun = true ∧ s.pend = none ∧ s.turns.head? = some .engine ∧
      t.wire = s.wire ++ [s.dmaRead s.rp.toNat]) := by
  have hts : ∀ ts, s.SameConfig { s with turns := ts } := fun _ => ⟨rfl, rfl, rfl, rfl, rfl⟩
  cases step_next_cases h with
  | event e hd h => exact (exec_event_keeps h).imp_right .inl
  | nothing hd ht h => subst h; exact ⟨.refl t, .inl rfl⟩
  | engine hd ts ht h =>
    rcases engineStep_eq_or_afterEngine h with rfl | ⟨hr, hp, -, rfl⟩
    · exact ⟨hts ts, .inl rfl⟩
    · exact ⟨⟨rfl, rfl, rfl, rfl, rfl⟩, .inr ⟨hr, hp, by rw [ht]; rfl, rfl⟩⟩
  | error hd ts ht h =>
    subst h
    exact (reportError_keeps { s with turns := ts }).imp (hts ts).trans .inl
  | joint hd ts ht h => subst h; exact ⟨hts ts, .inl rfl⟩
  | foreground hd ts whole ht h => exact (foregroundCase_keeps h).imp (hts ts).trans .inl

/-- Settles O41. -/
theorem onlyTheEngineWritesTheWire : Obligations.OnlyTheEngineWritesTheWire := fun _ _ h => (step_keeps h).2

/-- Settles O47. -/
theorem configurationIsFixed : Obligations.ConfigurationIsFixed := by
  intro s t h
  have hc := (step_keeps h).1
  exact ⟨hc.n, hc.layout, hc.zeroDuty, hc.oneDuty⟩

/-! ### Construction (70_reset_and_hazards.md R231) -/

theorem exists_layout_of_le {code : Nat} (h : code ≤ 11) : ∃ l, Layout.ofCode? code = some l := by
  interval_cases code <;> exact ⟨_, rfl⟩

/-- The strip that construction makes with the layout its code stands for. -/
theorem construct_of_layout {p : Params} {l : Layout} (h : Layout.ofCode? p.layoutCode = some l) :
    construct p = .next { State.reset with
      n := if p.allocOk then p.nReq else 0
      layout := l
      zeroDuty := p.zeroDuty
      oneDuty := p.oneDuty
      powerUp := p.powerUp } := by
  unfold construct
  rw [h]
  rfl

theorem construct_of_gt {p : Params} (h : 11 < p.layoutCode) :
    construct p = .refused (.noSuchLayout p.layoutCode) := by
  unfold construct
  rw [ofCode?_of_gt h]

/-- Settles O42. -/
theorem constructGivesResetValues : Obligations.ConstructGivesResetValues := by
  refine ⟨fun p => ⟨fun hle => ?_, construct_of_gt⟩, construct_of_layout rfl⟩
  obtain ⟨l, hl⟩ := exists_layout_of_le hle
  refine ⟨_, construct_of_layout hl, hl, ?_⟩
  and_intros <;> rfl

/-- A strip that nothing has happened to yet, whatever its parameters, program and schedule, has the invariant: its memories
list nothing, the engine is stopped, the row is that of Idle. -/
theorem inv_of_fresh (n : BitVec 16) (l : Layout) (z o : Duty) (u : Nat) (cs : List CmdWord) (ts : List Turn) :
    ({ State.reset with
        n := n, layout := l, zeroDuty := z, oneDuty := o, powerUp := u, prog := cs, turns := ts } : State).Inv where
  fbForm := .nil
  fbRange := fun _ h => by cases h
  dmaForm := .nil
  dmaRange := fun _ h => by cases h
  rpRange := by
    have hb := bpp_pos { State.reset with layout := l }
    show 0 < 16 * (layoutRow l).bpp
    exact Nat.mul_pos (by decide) hb
  labelled := fun _ => ⟨.inl ⟨rfl, rfl, rfl, rfl⟩, fun h => by cases h⟩
  aligned := Nat.zero_mod _
  bounded := Nat.zero_le _
  stopped := fun _ => rfl
  complete := fun _ h => by cases h
  flying := fun h => by cases h
  command := .inl fun _ h => by cases h
  locals := fun _ => rfl

/-- Settles O43. -/
theorem resetMeetsInvariant : Obligations.ResetMeetsInvariant := inv_of_fresh 3 .grb 25 50 0 [] []

/-- Settles O44. -/
theorem constructedStripMeetsInvariant : Obligations.ConstructedStripMeetsInvariant := by
  intro p s cs ts h
  cases hl : Layout.ofCode? p.layoutCode with
  | none =>
    simp only [construct, hl] at h
    cases h
  | some l =>
    rw [construct_of_layout hl] at h
    cases h
    exact inv_of_fresh _ l _ _ _ cs ts

end Sys2Proof.Machine
end

section
/-! PROOFS. The invariant in two parts, and what the events and the engine do to it (10_state.md section 7,
42_scheduler.md sections 1, 2 and 4, 60_exceptions.md section 6). -/

namespace Sys2Proof.Machine

/-! ### The invariant taken apart -/

/-- The part of the invariant that holds inside start too: the two memories, the engine's pointer, the cursor. -/
structure State.Shape (s : State) : Prop where
  fbForm   : Memory.wf s.fb
  fbRange  : Memory.below s.fb s.fbSize
  dmaForm  : Memory.wf s.dma
  dmaRange : Memory.below s.dma s.bufLen
  rpRange  : s.rp.toNat < s.bufLen
  aligned  : s.outIndex.toNat % s.bpp = 0
  bounded  : s.outIndex.toNat ≤ (s.n.toNat + 3) * s.bpp

/-- The invariant outside start, but for the command in progress. -/
structure State.Sound (s : State) : Prop where
  shape    : s.Shape
  labelled : s.Labelled
  stopped  : s.hwRun = false → s.pend = none
  complete : s.phase = .complete → s.outIndex.toNat = (completionEvent s.n.toNat + 1) * s.bpp
  flying   : s.hwRun = true → s.InFlight

theorem State.Inv.shape {s : State} (h : s.Inv) : s.Shape :=
  ⟨h.fbForm, h.fbRange, h.dmaForm, h.dmaRange, h.rpRange, h.aligned, h.bounded⟩

theorem State.Inv.sound {s : State} (h : s.Inv) (hs : s.inStart = false) : s.Sound :=
  ⟨h.shape, h.labelled hs, h.stopped, h.complete hs, h.flying⟩

/-- Outside start what is left of the command in progress is allowed. -/
theorem State.Inv.allowed {s : State} (h : s.Inv) (hs : s.inStart = false) : ∀ a ∈ s.todo, a.AllowedIn s := by
  rcases h.command with ha | ⟨left, ht, -⟩
  · exact ha
  · rw [State.inStart_of_left ht] at hs
    cases hs

/-- Inside start what is left is the rest of start. -/
theorem State.Inv.priming {s : State} (h : s.Inv) (hs : s.inStart = true) :
    ∃ left, s.todo = left ++ [.startEngine] ∧ s.Priming left := by
  rcases h.command with ha | hp
  · rw [State.inStart_of_allowed ha] at hs
    cases hs
  · exact hp

theorem State.Inv.inStart_of_hwRun {s : State} (h : s.Inv) (hr : s.hwRun = true) : s.inStart = false :=
  Bool.eq_false_iff.mpr fun hs => by
    rw [(h.stopped_of_inStart hs).1] at hr
    cases hr

theorem State.Sound.inv {s : State} (h : s.Sound) (ha : ∀ a ∈ s.todo, a.AllowedIn s) (hl : s.todo = [] → s.loaded = []) :
    s.Inv :=
  ⟨h.shape.fbForm, h.shape.fbRange, h.shape.dmaForm, h.shape.dmaRange, h.shape.rpRange, fun _ => h.labelled,
    h.shape.aligned, h.shape.bounded, h.stopped, fun _ => h.complete, h.flying, .inl ha, hl⟩

theorem State.Shape.inv_of_priming {s : State} {left : List Access} (h : s.Shape)
    (ht : s.todo = left ++ [.startEngine]) (hp : s.Priming left) : s.Inv where
  fbForm := h.fbForm
  fbRange := h.fbRange
  dmaForm := h.dmaForm
  dmaRange := h.dmaRange
  rpRange := h.rpRange
  labelled := fun hf => absurd (State.inStart_of_left ht) (by rw [hf]; decide)
  aligned := h.aligned
  bounded := h.bounded
  stopped := fun _ => hp.noEvent
  complete := fun hf => absurd (State.inStart_of_left ht) (by rw [hf]; decide)
  flying := fun hr => absurd hp.engine (by rw [hr]; decide)
  command := .inr ⟨left, ht, hp⟩
  locals := fun hf => absurd (ht.symm.trans hf) (List.append_ne_nil_of_right_ne_nil _ (List.cons_ne_nil _ _))

/-- The shape is not about the program, the schedule or the command in progress. -/
theorem State.Shape.withCommand {s : State} (h : s.Shape) (p : List CmdWord) (ts : List Turn) (l : List Access)
    (ld : List Byte) : ({ s with prog := p, turns := ts, todo := l, loaded := ld } : State).Shape :=
  ⟨h.fbForm, h.fbRange, h.dmaForm, h.dmaRange, h.rpRange, h.aligned, h.bounded⟩

theorem State.Sound.withCommand {s : State} (h : s.Sound) (p : List CmdWord) (ts : List Turn) (l : List Access)
    (ld : List Byte) : ({ s with prog := p, turns := ts, todo := l, loaded := ld } : State).Sound :=
  ⟨h.shape.withCommand p ts l ld, ⟨h.labelled.row, h.labelled.draining⟩, h.stopped, h.complete,
    fun hr => have f := h.flying hr; ⟨f.pixels, f.started, f.evenPart, f.oddPart⟩⟩

/-- An access stays allowed when `ready` is not taken back and the cursor not put back. -/
theorem Access.AllowedIn.mono {s t : State} {a : Access} (h : a.AllowedIn s) (hsize : t.fbSize = s.fbSize)
    (hready : s.ready = true → t.ready = true) (hcursor : s.outIndex.toNat ≤ t.outIndex.toNat) : a.AllowedIn t := by
  cases a with
  | loadFb a => exact Nat.lt_of_lt_of_eq h hsize.symm
  | storeFb a v => exact ⟨hsize ▸ h.1, h.2.imp hready fun hc => Nat.lt_of_lt_of_le hc hcursor⟩
  | storeScaled a v => exact ⟨hsize ▸ h.1, h.2.imp hready fun hc => Nat.lt_of_lt_of_le hc hcursor⟩
  | storeRescaled a b => exact ⟨hsize ▸ h.1, hready h.2⟩
  | setBrightness b => exact hready h
  | returnColour => trivial
  | returnZero => trivial
  | _ => exact h

/-! ### A transfer in flight -/

theorem eventsHandled_of_cursor {s : State} {k : Nat} (h : s.outIndex.toNat = (k + 1) * s.bpp) :
    s.eventsHandled = k := by
  rw [State.eventsHandled, h, Nat.mul_div_cancel _ (bpp_pos s), Nat.add_sub_cancel]

/-- HT pends after an even number of events, with the engine at the start of half B (42_scheduler.md R142). -/
theorem State.InFlight.of_ht {s : State} (h : s.InFlight) (hp : s.pend = some .ht) :
    s.eventsHandled % 2 = 0 ∧ s.eventsHandled ≤ s.n.toNat ∧ s.rp.toNat = s.halfLen := by
  rcases Nat.mod_two_eq_zero_or_one s.eventsHandled with heven | hodd
  · obtain ⟨hle, hrp⟩ := h.evenPart heven
    simp only [hp, reduceCtorEq, Option.some.injEq, or_self, false_and, false_or, true_and] at hrp
    exact ⟨heven, hle, hrp⟩
  · have := (h.oddPart hodd).2
    simp [hp] at this

/-- TC pends after an odd number of events, with the engine at the start of half A (42_scheduler.md R142). -/
theorem State.InFlight.of_tc {s : State} (h : s.InFlight) (hp : s.pend = some .tc) :
    s.eventsHandled % 2 = 1 ∧ s.eventsHandled ≤ s.n.toNat + 1 ∧ s.rp.toNat = 0 := by
  rcases Nat.mod_two_eq_zero_or_one s.eventsHandled with heven | hodd
  · have := (h.evenPart heven).2
    simp [hp] at this
  · obtain ⟨hle, hrp⟩ := h.oddPart hodd
    simp only [hp, reduceCtorEq, Option.some.injEq, or_self, false_and, false_or, true_and] at hrp
    exact ⟨hodd, hle, hrp⟩

/-- With nothing pending the engine is inside the half that the number of events handled tells (42_scheduler.md R142). -/
theorem State.InFlight.of_pend_none {s : State} (h : s.InFlight) (hp : s.pend = none) :
    (s.eventsHandled % 2 = 0 ∧ s.eventsHandled ≤ s.n.toNat ∧ s.rp.toNat < s.halfLen) ∨
    (s.eventsHandled % 2 = 1 ∧ s.eventsHandled ≤ s.n.toNat + 1 ∧ s.halfLen ≤ s.rp.toNat ∧ s.rp.toNat < s.bufLen) := by
  rcases Nat.mod_two_eq_zero_or_one s.eventsHandled with heven | hodd
  · obtain ⟨hle, hrp⟩ := h.evenPart heven
    simp only [hp, reduceCtorEq, or_false, true_and, false_and] at hrp
    exact .inl ⟨heven, hle, hrp⟩
  · obtain ⟨hle, hrp⟩ := h.oddPart hodd
    simp only [hp, reduceCtorEq, or_false, true_and, false_and] at hrp
    exact .inr ⟨hodd, hle, hrp⟩

/-- An event other than ERR is due only when it pends (60_exceptions.md R198, R199). -/
theorem pend_of_dueEvent {s : State} {e : Event} (h : s.dueEvent = some e) (he : e ≠ .err) : s.pend = some e := by
  obtain ⟨-, p, hp, heq⟩ := (dueEvent_eq_some_iff s e).mp h
  split at heq
  · exact absurd heq he
  · rw [hp, heq]

/-! ### The engine and its error report -/

/-- An engine step moves the engine through its half, and raises the half's event at the end of it. -/
theorem State.InFlight.afterEngine {s : State} (h : s.InFlight) (hp : s.pend = none) : s.afterEngine.InFlight := by
  have hH := halfLen_pos s
  have hL := bufLen_eq s
  have hbuf := bufLen_le s
  refine ⟨h.pixels, h.started, fun heven => ?_, fun hodd => ?_⟩
  · rcases h.of_pend_none hp with ⟨-, hle, hrp⟩ | ⟨hodd, -⟩
    · refine ⟨hle, ?_⟩
      show ((s.afterEngine.pend = none ∨ _) ∧ s.afterEngine.rp.toNat < s.halfLen) ∨
        (s.afterEngine.pend = some .ht ∧ s.afterEngine.rp.toNat = s.halfLen)
      rw [afterEngine_rp_toNat (by omega), if_neg (by omega)]
      simp only [State.afterEngine, if_neg (show ¬s.rp.toNat + 1 = s.bufLen by omega)]
      by_cases hend : s.rp.toNat + 1 = s.halfLen
      · exact .inr ⟨if_pos hend, hend⟩
      · exact .inl ⟨.inl (if_neg hend), by omega⟩
    · exact absurd (heven.symm.trans hodd) (by decide)
  · rcases h.of_pend_none hp with ⟨heven, -⟩ | ⟨-, hle, hlow, hrp⟩
    · exact absurd (heven.symm.trans hodd) (by decide)
    · refine ⟨hle, ?_⟩
      show ((s.afterEngine.pend = none ∨ _) ∧ s.halfLen ≤ s.afterEngine.rp.toNat ∧ s.afterEngine.rp.toNat < s.bufLen) ∨
        (s.afterEngine.pend = some .tc ∧ s.afterEngine.rp.toNat = 0)
      rw [afterEngine_rp_toNat hrp]
      by_cases hend : s.rp.toNat + 1 = s.bufLen
      · exact .inr ⟨if_pos hend, if_pos hend⟩
      · rw [if_neg hend]
        refine .inl ⟨.inl ?_, by omega, by omega⟩
        simp only [State.afterEngine, if_neg hend, if_neg (show ¬s.rp.toNat + 1 = s.halfLen by omega)]

theorem State.Sound.afterEngine {s : State} (h : s.Sound) (hr : s.hwRun = true) (hp : s.pend = none) :
    s.afterEngine.Sound where
  shape :=
    have hlt : s.afterEngine.rp.toNat < s.bufLen := by
      have hL := bufLen_eq s
      have hH := halfLen_pos s
      have hrp := h.shape.rpRange
      rw [afterEngine_rp_toNat hrp]
      split <;> omega
    ⟨h.shape.fbForm, h.shape.fbRange, h.shape.dmaForm, h.shape.dmaRange, hlt, h.shape.aligned, h.shape.bounded⟩
  labelled := ⟨h.labelled.row, h.labelled.draining⟩
  stopped := fun hf => by rw [show s.hwRun = false from hf] at hr; cases hr
  complete := h.complete
  flying := fun _ => (h.flying hr).afterEngine hp

/-- An error pends wherever the engine is in its half. -/
theorem State.InFlight.withError {s : State} (h : s.InFlight) (hp : s.pend = none) :
    ({ s with pend := some .err } : State).InFlight := by
  refine ⟨h.pixels, h.started, fun heven => ?_, fun hodd => ?_⟩
  · rcases h.of_pend_none hp with ⟨-, hle, hrp⟩ | ⟨hodd, -⟩
    · exact ⟨hle, .inl ⟨.inr rfl, hrp⟩⟩
    · exact absurd (heven.symm.trans hodd) (by decide)
  · rcases h.of_pend_none hp with ⟨heven, -⟩ | ⟨-, hle, hlow, hrp⟩
    · exact absurd (heven.symm.trans hodd) (by decide)
    · exact ⟨hle, .inl ⟨.inr rfl, hlow, hrp⟩⟩

theorem State.Sound.withError {s : State} (h : s.Sound) (hr : s.hwRun = true) (hp : s.pend = none) :
    ({ s with pend := some .err } : State).Sound where
  shape := ⟨h.shape.fbForm, h.shape.fbRange, h.shape.dmaForm, h.shape.dmaRange, h.shape.rpRange, h.shape.aligned,
    h.shape.bounded⟩
  labelled := ⟨h.labelled.row, h.labelled.draining⟩
  stopped := fun hf => by rw [show s.hwRun = false from hf] at hr; cases hr
  complete := h.complete
  flying := fun _ => (h.flying hr).withError hp

/-! ### The handlers -/

/-- A refill of a half stays inside the DMA buffer. -/
theorem State.Shape.dma_fillHalf {s : State} (h : s.Shape) (hf : Half) :
    Memory.wf (s.fillHalf hf s.cursorEntries).dma ∧ Memory.below (s.fillHalf hf s.cursorEntries).dma s.bufLen := by
  refine ⟨Memory.wf_writeRun h.dmaForm _ _, Memory.below_writeRun h.dmaRange ?_⟩
  have hL := bufLen_eq s
  rw [cursorEntries_length]
  cases hf <;> simp only [State.halfBase] <;> omega

/-- The advanced cursor of a transfer in flight is still aligned and within its bounds. -/
theorem State.Inv.advancedCursor {s : State} (h : s.Inv) (hr : s.hwRun = true) :
    s.advancedCursor.toNat = (s.eventsHandled + 2) * s.bpp ∧ s.advancedCursor.toNat % s.bpp = 0 ∧
      s.advancedCursor.toNat ≤ (s.n.toNat + 3) * s.bpp := by
  obtain ⟨-, hadv, hle⟩ := h.cursor_eq hr
  have hadv : s.advancedCursor.toNat = (s.eventsHandled + 2) * s.bpp := hadv
  exact ⟨hadv, hadv ▸ Nat.mul_mod_left _ _, hadv ▸ Nat.mul_le_mul_right _ (by omega)⟩

theorem State.Inv.shape_refilled {s : State} (h : s.Inv) (hr : s.hwRun = true) (hf : Half) : (s.refilled hf).Shape :=
  have hd := h.shape.dma_fillHalf hf
  have hc := h.advancedCursor hr
  ⟨h.fbForm, h.fbRange, hd.1, hd.2, h.rpRange, hc.2.1, hc.2.2⟩

/-- The phase a refill sets is Draining past the pixel data, else Streaming. -/
theorem refilled_labelled {s : State} (hr : s.hwRun = true) (hready : s.ready = false) (hi : s.irqEn = true) (hf : Half) :
    (s.refilled hf).Labelled := by
  by_cases hpast : s.n.toNat * s.bpp < s.advancedCursor.toNat
  · have hphase : (s.refilled hf).phase = .draining := if_pos hpast
    exact ⟨.inr (.inr (.inl ⟨hphase, hready, hr, hi⟩)), fun _ => iff_of_true hphase hpast⟩
  · have hphase : (s.refilled hf).phase = .streaming := if_neg hpast
    exact ⟨.inr (.inl ⟨hphase, hready, hr, hi⟩), fun _ => iff_of_false (by rw [hphase]; decide) hpast⟩

theorem refilled_phase_ne_complete (s : State) (hf : Half) : (s.refilled hf).phase ≠ .complete := by
  simp only [State.refilled]
  split <;> decide

/-- A refill that does not complete the transfer goes on in the other half. -/
theorem State.Inv.sound_refilled {s : State} (h : s.Inv) (hr : s.hwRun = true) (hready : s.ready = false)
    (hi : s.irqEn = true) (hf : Half) (hfly : (s.refilled hf).InFlight) : (s.refilled hf).Sound where
  shape := h.shape_refilled hr hf
  labelled := refilled_labelled hr hready hi hf
  stopped := fun _ => rfl
  complete := fun hc => absurd hc (refilled_phase_ne_complete s hf)
  flying := fun _ => hfly

theorem State.Inv.eventsHandled_refilled {s : State} (h : s.Inv) (hr : s.hwRun = true) (hf : Half) :
    (s.refilled hf).eventsHandled = s.eventsHandled + 1 :=
  eventsHandled_of_cursor (s := s.refilled hf) (h.advancedCursor hr).1

theorem State.Inv.started_refilled {s : State} (h : s.Inv) (hr : s.hwRun = true) (hf : Half) :
    (s.refilled hf).bpp ≤ (s.refilled hf).outIndex.toNat := by
  show s.bpp ≤ s.advancedCursor.toNat
  rw [(h.advancedCursor hr).1]
  exact Nat.le_mul_of_pos_left _ (by omega)

/-- After HT the engine is in half B, after an odd number of events. -/
theorem State.Inv.inFlight_after_ht {s : State} (h : s.Inv) (hr : s.hwRun = true) (hp : s.pend = some .ht) :
    (s.refilled .a).InFlight := by
  obtain ⟨heven, hle, hrp⟩ := (h.flying hr).of_ht hp
  have hk := h.eventsHandled_refilled hr .a
  have hL := bufLen_eq s
  have hH := halfLen_pos s
  refine ⟨(h.flying hr).pixels, h.started_refilled hr .a, fun h' => by omega, fun _ => ⟨?_, .inl ⟨.inl rfl, ?_, ?_⟩⟩⟩
  · rw [hk]; exact Nat.add_le_add_right hle 1
  · exact Nat.le_of_eq hrp.symm
  · exact (show s.rp.toNat < s.bufLen by omega)

/-- After a TC that does not complete the engine is in half A, after an even number of events. -/
theorem State.Inv.inFlight_after_tc {s : State} (h : s.Inv) (hr : s.hwRun = true) (hp : s.pend = some .tc)
    (hshort : ¬(s.n.toNat + 2) * s.bpp ≤ s.advancedCursor.toNat) : (s.refilled .b).InFlight := by
  obtain ⟨hodd, -, hrp⟩ := (h.flying hr).of_tc hp
  have hk := h.eventsHandled_refilled hr .b
  have hH := halfLen_pos s
  rw [(h.advancedCursor hr).1, Nat.mul_le_mul_right_iff (bpp_pos s)] at hshort
  refine ⟨(h.flying hr).pixels, h.started_refilled hr .b, fun _ => ⟨?_, .inl ⟨.inl rfl, ?_⟩⟩, fun h' => by omega⟩
  · show (s.refilled .b).eventsHandled ≤ s.n.toNat
    omega
  · exact (show s.rp.toNat < s.halfLen by omega)

/-- A TC that completes is the event of 42_scheduler.md R149. -/
theorem State.Inv.completing_event {s : State} (h : s.Inv) (hr : s.hwRun = true) (hp : s.pend = some .tc)
    (hfull : (s.n.toNat + 2) * s.bpp ≤ s.advancedCursor.toNat) :
    s.eventsHandled + 1 = completionEvent s.n.toNat := by
  obtain ⟨hodd, hle, -⟩ := (h.flying hr).of_tc hp
  rw [(h.advancedCursor hr).1, Nat.mul_le_mul_right_iff (bpp_pos s)] at hfull
  unfold completionEvent
  split <;> omega

theorem State.Inv.sound_completed {s : State} (h : s.Inv) (hr : s.hwRun = true) (hp : s.pend = some .tc)
    (hfull : (s.n.toNat + 2) * s.bpp ≤ s.advancedCursor.toNat) : s.completed.Sound where
  shape :=
    have hs := h.shape_refilled hr .b
    ⟨hs.fbForm, hs.fbRange, hs.dmaForm, hs.dmaRange, hs.rpRange, hs.aligned, hs.bounded⟩
  labelled := ⟨.inr (.inr (.inr ⟨rfl, rfl, rfl, rfl⟩)), fun hf => by cases hf⟩
  stopped := fun _ => rfl
  complete := fun _ => by
    rw [← show s.eventsHandled + 1 = completionEvent s.completed.n.toNat from h.completing_event hr hp hfull]
    exact (h.advancedCursor hr).1
  flying := fun hf => by cases hf

theorem State.Inv.sound_aborted {s : State} (h : s.Inv) : s.aborted.Sound where
  shape := ⟨h.fbForm, h.fbRange, h.dmaForm, h.dmaRange, h.rpRange, h.aligned, h.bounded⟩
  labelled := ⟨.inl ⟨rfl, rfl, rfl, rfl⟩, fun hf => by cases hf⟩
  stopped := fun _ => rfl
  complete := fun hf => by cases hf
  flying := fun hf => by cases hf

/-- A due event keeps the invariant, but for the command in progress. -/
theorem State.Inv.sound_afterEvent {s : State} (h : s.Inv) {e : Event} (hd : s.dueEvent = some e) :
    (s.afterEvent e).Sound := by
  obtain ⟨hr, hready, hi⟩ := h.in_flight_of_dueEvent hd
  cases e with
  | ht =>
    have hp := pend_of_dueEvent hd (by decide)
    exact h.sound_refilled hr hready hi .a (h.inFlight_after_ht hr hp)
  | tc =>
    have hp := pend_of_dueEvent hd (by decide)
    simp only [State.afterEvent, State.afterTc]
    split
    · next hfull => exact h.sound_completed hr hp hfull
    · next hshort => exact h.sound_refilled hr hready hi .b (h.inFlight_after_tc hr hp hshort)
  | err => exact h.sound_aborted

/-- A due event does not put the cursor back. -/
theorem State.Inv.cursor_le_afterEvent {s : State} (h : s.Inv) {e : Event} (hd : s.dueEvent = some e) :
    s.outIndex.toNat ≤ (s.afterEvent e).outIndex.toNat := by
  obtain ⟨hr, -, -⟩ := h.in_flight_of_dueEvent hd
  have hle : s.outIndex.toNat ≤ s.advancedCursor.toNat := by
    rw [(h.cursor_eq hr).1, (h.advancedCursor hr).1]
    exact Nat.mul_le_mul_right _ (by omega)
  cases e with
  | ht => exact hle
  | tc =>
    simp only [State.afterEvent, State.afterTc]
    split <;> exact hle
  | err => exact Nat.le_refl _

/-- An event between two accesses of a command leaves what is left of it allowed (20_memory.md R67). -/
theorem State.Inv.afterEvent {s : State} (h : s.Inv) {e : Event} (hd : s.dueEvent = some e) : (s.afterEvent e).Inv := by
  obtain ⟨hr, hready, -⟩ := h.in_flight_of_dueEvent hd
  have hframe := afterEvent_frame s e
  have htodo : (s.afterEvent e).todo = s.todo := by rw [hframe]
  have hloaded : (s.afterEvent e).loaded = s.loaded := by rw [hframe]
  have hsize : (s.afterEvent e).fbSize = s.fbSize := by rw [hframe]; rfl
  refine (h.sound_afterEvent hd).inv (fun a ha => ?_) fun ht => hloaded.trans (h.locals (htodo.symm.trans ht))
  exact (h.allowed (h.inStart_of_hwRun hr) a (htodo ▸ ha)).mono hsize (fun ht => by rw [hready] at ht; cases ht)
    (h.cursor_le_afterEvent hd)

/-- An engine step keeps the invariant. -/
theorem State.Inv.of_engineStep {s t : State} (h : s.Inv) (ht : engineStep s = .next t) : t.Inv := by
  rcases engineStep_eq_or_afterEngine ht with rfl | ⟨hr, hp, -, rfl⟩
  · exact h
  · have hs := h.inStart_of_hwRun hr
    exact ((h.sound hs).afterEngine hr hp).inv (fun a ha => (h.allowed hs a ha).mono rfl id (Nat.le_refl _)) h.locals

/-- So does an error report. -/
theorem State.Inv.of_reportError {s : State} (h : s.Inv) : (reportError s).Inv := by
  unfold reportError
  split
  · next hc =>
    simp only [Bool.and_eq_true, decide_eq_true_eq] at hc
    obtain ⟨⟨hr, -⟩, hp⟩ := hc
    have hs := h.inStart_of_hwRun hr
    exact ((h.sound hs).withError hr hp).inv (fun a ha => (h.allowed hs a ha).mono rfl id (Nat.le_refl _)) h.locals
  · exact h

end Sys2Proof.Machine
end

section
/-! PROOFS. What a turn of the foreground can do to a state with the invariant, and StepKeepsInvariant: allowed accesses,
priming ones, or the arming of the engine (20_memory.md section 5, 42_scheduler.md section 2, 60_exceptions.md section 4). -/

namespace Sys2Proof.Machine

/-! ### Accesses of commands other than SHOW -/

/-- `t` is `s` after accesses of commands other than SHOW, wherever the foreground then is in its program: only the
FrameBuffer, the brightness, the results and the command in progress differ, and no byte that a transfer in flight has
still to send (60_exceptions.md R213, 20_memory.md R67). -/
structure State.Accessed (s t : State) : Prop where
  frame : t = { s with
    fb := t.fb, brightness := t.brightness, returned := t.returned, prog := t.prog, todo := t.todo, loaded := t.loaded }
  fbForm : Memory.wf s.fb → Memory.wf t.fb
  fbRange : Memory.below s.fb s.fbSize → Memory.below t.fb s.fbSize
  unsent : s.ready = false → ∀ x, s.outIndex.toNat ≤ x → t.fbRead x = s.fbRead x

namespace State.Accessed

variable {s t u : State}

theorem refl (s : State) : s.Accessed s := ⟨rfl, id, id, fun _ _ _ => rfl⟩

theorem n (h : s.Accessed t) : t.n = s.n := by rw [h.frame]
theorem layout (h : s.Accessed t) : t.layout = s.layout := by rw [h.frame]
theorem dma (h : s.Accessed t) : t.dma = s.dma := by rw [h.frame]
theorem outIndex (h : s.Accessed t) : t.outIndex = s.outIndex := by rw [h.frame]
theorem ready (h : s.Accessed t) : t.ready = s.ready := by rw [h.frame]
theorem phase (h : s.Accessed t) : t.phase = s.phase := by rw [h.frame]
theorem irqEn (h : s.Accessed t) : t.irqEn = s.irqEn := by rw [h.frame]
theorem hwRun (h : s.Accessed t) : t.hwRun = s.hwRun := by rw [h.frame]
theorem rp (h : s.Accessed t) : t.rp = s.rp := by rw [h.frame]
theorem pend (h : s.Accessed t) : t.pend = s.pend := by rw [h.frame]
theorem wire (h : s.Accessed t) : t.wire = s.wire := by rw [h.frame]
theorem outputs (h : s.Accessed t) : t.outputs = s.outputs := by rw [h.frame]
theorem turns (h : s.Accessed t) : t.turns = s.turns := by rw [h.frame]
theorem powerUp (h : s.Accessed t) : t.powerUp = s.powerUp := by rw [h.frame]
theorem bpp (h : s.Accessed t) : t.bpp = s.bpp := by rw [h.frame]; rfl
theorem fbSize (h : s.Accessed t) : t.fbSize = s.fbSize := by rw [h.frame]; rfl

theorem trans (h : s.Accessed t) (h' : t.Accessed u) : s.Accessed u where
  frame := by
    have hu := h'.frame
    rw [h.frame] at hu
    exact hu
  fbForm := h'.fbForm ∘ h.fbForm
  fbRange := fun hb => h.fbSize ▸ h'.fbRange (h.fbSize.symm ▸ h.fbRange hb)
  unsent := fun hr x hx =>
    (h'.unsent (h.ready.trans hr) x (by rw [h.outIndex]; exact hx)).trans (h.unsent hr x hx)

/-- Where the foreground is in its program does not matter. -/
theorem withCommand (h : s.Accessed t) (p : List CmdWord) (l : List Access) (ld : List Byte) :
    s.Accessed { t with prog := p, todo := l, loaded := ld } where
  frame := by
    have ht := h.frame
    rw [ht]
  fbForm := h.fbForm
  fbRange := h.fbRange
  unsent := h.unsent

/-- What is allowed before such accesses is allowed after them: they write neither `ready` nor the cursor. -/
theorem allowed (h : s.Accessed t) {a : Access} (ha : a.AllowedIn s) : a.AllowedIn t :=
  ha.mono h.fbSize (fun hr => h.ready.trans hr) (Nat.le_of_eq (by rw [h.outIndex]))

/-- The invariant outside start does not notice such accesses. -/
theorem sound (h : s.Accessed t) (hs : s.Sound) : t.Sound := by
  have hform := h.fbForm hs.shape.fbForm
  have hrange := h.fbRange hs.shape.fbRange
  rw [h.frame]
  exact ⟨⟨hform, hrange, hs.shape.dmaForm, hs.shape.dmaRange, hs.shape.rpRange, hs.shape.aligned, hs.shape.bounded⟩,
    ⟨hs.labelled.row, hs.labelled.draining⟩, hs.stopped, hs.complete,
    fun hr => have f := hs.flying hr; ⟨f.pixels, f.started, f.evenPart, f.oddPart⟩⟩

end State.Accessed

theorem accessed_perform {s : State} {a : Access} (ha : a.AllowedIn s) : s.Accessed (s.perform a) where
  frame := by
    rw [perform_frame_of_allowed ha]
  fbForm := fun h => fbForm_perform h a
  fbRange := fun h => fbRange_perform h ha
  unsent := fun hr _ hx => fbRead_perform_of_allowed ha hr hx

theorem accessed_performAll {s : State} {l : List Access} (h : ∀ a ∈ l, a.AllowedIn s) : s.Accessed (s.performAll l) := by
  induction l generalizing s with
  | nil => exact .refl s
  | cons a l ih =>
    have hstep := accessed_perform (h a List.mem_cons_self)
    exact hstep.trans (ih fun b hb => hstep.allowed (h b (List.mem_cons_of_mem a hb)))

/-! ### Which accesses a command makes -/

/-- SHOW makes accesses only where it starts a transfer. -/
theorem accessesOf_showCmd_eq_some {s : State} {l : List Access} (h : accessesOf .showCmd s = some l) :
    l = [] ∨ s.n ≠ 0 ∧ s.ready = true ∧ l = s.primingAccesses ++ [.startEngine] := by
  by_cases hn : s.n = 0
  · rw [accessesOf_showCmd_of_empty hn] at h; cases h; exact .inl rfl
  · rcases Bool.eq_false_or_eq_true s.ready with hr | hr
    · rw [accessesOf_showCmd_of_ready hn hr] at h; cases h; exact .inr ⟨hn, hr, rfl⟩
    · rw [accessesOf_showCmd_of_busy hn hr] at h; cases h

/-- A pixel whose cursor wait is over lies before the cursor, or no transfer is active (43_transfer_controller.md R177). -/
theorem chanAddr_before_cursor {s : State} {p : Nat} {c : Channel} {a : Nat} (ha : s.chanAddr p c = some a)
    (hw : s.cursorWaitDone p = true) : s.ready = true ∨ a < s.outIndex.toNat := by
  refine ((cursorWaitDone_iff s p).mp hw).imp_right fun hc => ?_
  simp only [State.chanAddr, Option.map_eq_some_iff] at ha
  obtain ⟨o, ho, rfl⟩ := ha
  have hlt : o < s.bpp := chanOff_lt _ _ _ ho
  rw [Nat.succ_mul] at hc
  omega

/-- The accesses of a command other than SHOW are allowed (20_memory.md R52, R67 (a), (b)). -/
theorem accessesOf_allowed {s : State} {i : Instr} {l : List Access} (hs : i ≠ .showCmd) (h : accessesOf i s = some l) :
    ∀ a ∈ l, a.AllowedIn s := by
  cases i with
  | showCmd => exact absurd rfl hs
  | ht => cases h
  | tc => cases h
  | err => cases h
  | clearCmd =>
    rcases Bool.eq_false_or_eq_true s.ready with hr | hr
    · rw [accessesOf_clearCmd_of_ready hr] at h; cases h
      intro a ha
      obtain ⟨x, hx, rfl⟩ := List.mem_map.mp ha
      exact ⟨List.mem_range.mp hx, .inl hr⟩
    · rw [accessesOf_clearCmd_of_busy hr] at h; cases h
  | waitCmd =>
    rcases Bool.eq_false_or_eq_true s.ready with hr | hr
    · rw [accessesOf_waitCmd_of_ready hr] at h; cases h
      exact fun a ha => by cases ha
    · rw [accessesOf_waitCmd_of_busy hr] at h; cases h
  | setPix n color =>
    rcases Nat.lt_or_ge n.toNat s.n.toNat with hin | hout
    · rcases Bool.eq_false_or_eq_true (s.cursorWaitDone n.toNat) with hw | hw
      · rw [accessesOf_setPix_of_done color hin hw] at h; cases h
        intro a ha
        obtain ⟨c, -, hc⟩ := List.mem_filterMap.mp ha
        obtain ⟨x, hx, rfl⟩ := Option.map_eq_some_iff.mp hc
        exact ⟨chanAddr_lt hx hin, chanAddr_before_cursor hx hw⟩
      · rw [accessesOf_setPix_of_waiting color hin hw] at h; cases h
    · rw [accessesOf_setPix_of_outOfRange color hout] at h; cases h
      exact fun a ha => by cases ha
  | getPix n =>
    rcases Nat.lt_or_ge n.toNat s.n.toNat with hin | hout
    · rw [accessesOf_getPix_of_inRange hin] at h; cases h
      intro a ha
      rcases List.mem_append.mp ha with ha | ha
      · obtain ⟨c, -, hc⟩ := List.mem_filterMap.mp ha
        obtain ⟨x, hx, rfl⟩ := Option.map_eq_some_iff.mp hc
        exact chanAddr_lt hx hin
      · rw [List.mem_singleton.mp ha]
        trivial
    · rw [accessesOf_getPix_of_outOfRange hout] at h; cases h
      intro a ha
      rw [List.mem_singleton.mp ha]
      trivial
  | setBri data =>
    rcases Nat.lt_or_ge 255 data.toNat with hlarge | hle
    · rw [accessesOf_setBri_of_large hlarge] at h; cases h
      exact fun a ha => by cases ha
    · obtain ⟨b, hb⟩ := exists_byte_of_le hle
      by_cases hne : b = s.brightness
      · rw [accessesOf_setBri_of_current (hb.trans (congrArg _ hne))] at h; cases h
        exact fun a ha => by cases ha
      · rcases Bool.eq_false_or_eq_true s.ready with hr | hr
        · rw [accessesOf_setBri_of_ready hb hne hr] at h; cases h
          intro a ha
          rcases List.mem_append.mp ha with ha | ha
          · obtain ⟨x, hx, hmem⟩ := List.mem_flatMap.mp ha
            rcases List.mem_cons.mp hmem with rfl | hmem
            · exact List.mem_range.mp hx
            · rw [List.mem_singleton.mp hmem]
              exact ⟨List.mem_range.mp hx, hr⟩
          · rw [List.mem_singleton.mp ha]
            exact hr
        · rw [accessesOf_setBri_of_busy hb hne hr] at h; cases h

/-! ### The body of start -/

/-- Every access of the priming primes: it stays inside the two memories, the strip having a pixel. -/
theorem primingAccesses_primes {s : State} (hn : s.n ≠ 0) : ∀ a ∈ s.primingAccesses, a.PrimesIn s := by
  have hb := bpp_pos s
  have hL := bufLen_eq s
  have hsize : s.bpp ≤ s.fbSize :=
    Nat.le_mul_of_pos_left _ (Nat.pos_of_ne_zero fun h => hn (BitVec.eq_of_toNat_eq h))
  have hbpp : (BitVec.ofNat 32 s.bpp).toNat = s.bpp := by
    rcases bpp_three_or_four s with h | h <;> rw [h] <;> rfl
  intro a ha
  simp only [State.primingAccesses, List.mem_append, List.mem_cons, List.mem_map, List.mem_range, List.mem_flatMap,
    List.not_mem_nil, or_false] at ha
  rcases ha with ((((rfl | rfl) | ⟨e, he, rfl⟩) | rfl) | ⟨j, hj, rfl | ⟨k, hk, rfl⟩⟩) | rfl | rfl
  · trivial
  · trivial
  · show s.halfBase .a + e < s.bufLen
    simp only [State.halfBase]
    omega
  · exact .inl rfl
  · exact Nat.lt_of_lt_of_le hj hsize
  · show s.halfBase .b + 8 * j + k < s.bufLen
    have hH : s.halfLen = 8 * s.bpp := rfl
    simp only [State.halfBase]
    omega
  · exact .inr hbpp
  · trivial

/-- With a pixel and no transfer active, start may begin (42_scheduler.md R144). -/
theorem State.Inv.priming_of_ready {s : State} (h : s.Inv) (ht : s.todo = []) (hn : s.n ≠ 0) (hr : s.ready = true) :
    s.Priming s.primingAccesses := by
  have hs : s.inStart = false := State.inStart_of_allowed fun a ha => by rw [ht] at ha; cases ha
  have hrow : (s.phase = .idle ∨ s.phase = .complete) ∧ s.hwRun = false := by
    rcases (h.labelled hs).row with ⟨hp, -, hw, -⟩ | ⟨-, hf, -⟩ | ⟨-, hf, -⟩ | ⟨hp, -, hw, -⟩
    · exact ⟨.inl hp, hw⟩
    · rw [hr] at hf; cases hf
    · rw [hr] at hf; cases hf
    · exact ⟨.inr hp, hw⟩
  refine ⟨Nat.pos_of_ne_zero fun h => hn (BitVec.eq_of_toNat_eq h), ?_, hrow.2, h.stopped hrow.2,
    primingAccesses_primes hn, ?_, ?_, ?_, ?_⟩
  · exact hrow.1.elim .inl fun hp => .inr (.inl hp)
  all_goals rw [performAll_primingAccesses]; rfl

/-- The priming of a strip depends on its configuration only. -/
theorem Access.PrimesIn.of_sameConfig {s t : State} {a : Access} (h : a.PrimesIn s) (hc : s.SameConfig t) :
    a.PrimesIn t := by
  have hb := hc.bpp
  cases a with
  | zeroEntry e => exact (show e < 16 * t.bpp from hb ▸ h)
  | storeBit e k => exact (show e < 16 * t.bpp from hb ▸ h)
  | setCursor v => exact (show v.toNat = 0 ∨ v.toNat = t.bpp from hb ▸ h)
  | loadFb a => exact (show a < t.n.toNat * t.bpp from hc.n ▸ hb ▸ h)
  | _ => exact h

/-- One access of the priming leaves the rest of it. -/
theorem State.Priming.perform {s : State} {a : Access} {l : List Access} (h : s.Priming (a :: l)) :
    (s.perform a).Priming l := by
  have ha := h.accesses a List.mem_cons_self
  have hc := perform_sameConfig s a
  refine ⟨by rw [hc.n]; exact h.pixels, ?_, ?_, pend_perform h.noEvent a,
    fun b hb => (h.accesses b (List.mem_cons_of_mem a hb)).of_sameConfig hc, h.notReady, h.phase,
    by rw [hc.bpp]; exact h.cursor, h.events⟩
  · cases a with
    | enterPriming => exact .inr (.inr rfl)
    | startEngine => exact ha.elim
    | _ => exact h.begun
  · rw [perform_frame_of_primes ha]
    exact h.engine

theorem State.Shape.perform_of_primes {s : State} (h : s.Shape) {a : Access} (ha : a.PrimesIn s) : (s.perform a).Shape := by
  have hform := dmaForm_perform h.dmaForm a
  have hrange := dmaRange_perform h.dmaRange ha
  have hcursor : (s.perform a).outIndex = s.outIndex ∨ (s.perform a).outIndex.toNat = 0 ∨
      (s.perform a).outIndex.toNat = s.bpp := by
    cases a with
    | setCursor v => exact .inr ha
    | startEngine => exact ha.elim
    | _ => exact .inl rfl
  have hfb : (s.perform a).fb = s.fb := by rw [perform_frame_of_primes ha]
  rw [perform_frame_of_primes ha]
  refine ⟨h.fbForm, h.fbRange, hform, hrange, h.rpRange, ?_, ?_⟩
  · show (s.perform a).outIndex.toNat % s.bpp = 0
    rcases hcursor with hc | hc | hc
    · rw [hc]; exact h.aligned
    · rw [hc]; exact Nat.zero_mod _
    · rw [hc]; exact Nat.mod_self _
  · show (s.perform a).outIndex.toNat ≤ (s.n.toNat + 3) * s.bpp
    rcases hcursor with hc | hc | hc
    · rw [hc]; exact h.bounded
    · rw [hc]; exact Nat.zero_le _
    · rw [hc]; exact Nat.le_mul_of_pos_left _ (by omega)

/-- The priming done in part or whole. -/
theorem State.Priming.performAll {s : State} (l : List Access) {rest : List Access} (hs : s.Shape)
    (h : s.Priming (l ++ rest)) : (s.performAll l).Shape ∧ (s.performAll l).Priming rest := by
  induction l generalizing s with
  | nil => exact ⟨hs, h⟩
  | cons a l ih => exact ih (hs.perform_of_primes (h.accesses a List.mem_cons_self)) h.perform

/-- Once primed, the strip is armed by one access, and a transfer is in flight (42_scheduler.md R143, R144). -/
theorem State.Priming.sound_armed {s : State} (hs : s.Shape) (h : s.Priming []) : (s.perform .startEngine).Sound := by
  have hb := bpp_pos s
  have hbpp : (BitVec.ofNat 32 s.bpp).toNat = s.bpp := by
    rcases bpp_three_or_four s with h | h <;> rw [h] <;> rfl
  have hcursor : s.outIndex.toNat = s.bpp := by rw [show s.outIndex = _ from h.cursor, hbpp]
  have hk : (s.perform .startEngine).eventsHandled = 0 :=
    eventsHandled_of_cursor (s := s.perform .startEngine) (hcursor.trans (by rw [Nat.zero_add, Nat.one_mul]; rfl))
  have hshort : ¬s.n.toNat * s.bpp < s.outIndex.toNat := by
    rw [hcursor, Nat.not_lt]
    exact Nat.le_mul_of_pos_left _ h.pixels
  refine ⟨⟨hs.fbForm, hs.fbRange, hs.dmaForm, hs.dmaRange, ?_, hs.aligned, hs.bounded⟩,
    ⟨.inr (.inl ⟨rfl, h.notReady, rfl, h.events⟩), fun _ => iff_of_false (fun hf => by cases hf) hshort⟩,
    fun hf => (by cases hf), fun hf => (by cases hf), fun _ => ⟨h.pixels, Nat.le_of_eq hcursor.symm, fun _ => ?_, fun hodd => ?_⟩⟩
  · exact Nat.mul_pos (by decide) hb
  · exact ⟨by rw [hk]; exact Nat.zero_le _, .inl ⟨.inl rfl, halfLen_pos s⟩⟩
  · rw [hk] at hodd
    cases hodd

/-! ### What a turn of the foreground can do -/

/-- The foreground's current command is a SHOW that does not wait. -/
def State.beginsShow (s : State) : Prop :=
  s.todo = [] ∧ s.n ≠ 0 ∧ s.ready = true ∧ ∃ w p, s.prog = w :: p ∧ decode w = .ok .showCmd

/-- Everything a turn of the foreground can do to a state with the invariant: accesses of commands other than SHOW, or none;
part of the priming of start, or only its beginning; all that is left of start. -/
inductive ForegroundEffect (s t : State) (whole : Bool) : Prop where
  | accesses (hs : s.inStart = false) (h : s.Accessed t) (ht : ∀ a ∈ t.todo, a.AllowedIn t)
      (hl : t.todo = [] → t.loaded = []) (hp : t.prog = s.prog ∨ t.prog = s.prog.tail)
  | primes (l rest : List Access) (hp : s.Priming (l ++ rest))
      (h : t = { s.performAll l with todo := rest ++ [.startEngine] })
      (hw : s.inStart = true ∨ l = [] ∧ s.beginsShow)
  | arms (l : List Access) (hp : s.Priming l) (h : t = ((s.performAll l).perform .startEngine).endCommand)
      (hw : s.inStart = true ∨ whole = true ∧ s.beginsShow)

theorem makeAccess_of_ne_nil {s : State} {a : Access} {l : List Access} (h : s.todo = a :: l) (hne : l ≠ []) :
    s.makeAccess = { s.perform a with todo := l } := by
  obtain ⟨b, l, rfl⟩ := List.exists_cons_of_ne_nil hne
  exact makeAccess_of_more h

/-- A command in progress other than SHOW goes on. -/
theorem effect_of_allowed {s : State} (h : s.Inv) (hs : s.inStart = false) {a : Access} {l : List Access}
    (ht : s.todo = a :: l) (whole : Bool) :
    ForegroundEffect s (if whole then s.finishCommand else s.makeAccess) whole := by
  have hallowed := h.allowed hs
  have hnil : ∀ t : State, ∀ b ∈ t.endCommand.todo, b.AllowedIn t.endCommand := fun _ _ hb => by cases hb
  cases whole with
  | true =>
    have hacc := accessed_performAll hallowed
    exact .accesses hs (hacc.withCommand _ [] []) (hnil _) (fun _ => rfl)
      (.inr (congrArg List.tail (performAll_prog s _)))
  | false =>
    have hacc := accessed_perform (hallowed a (by rw [ht]; exact List.mem_cons_self))
    have hprog := perform_prog s a
    simp only [Bool.false_eq_true, if_false]
    by_cases hl : l = []
    · subst hl
      rw [makeAccess_of_last ht]
      exact .accesses hs (hacc.withCommand _ [] []) (hnil _) (fun _ => rfl) (.inr (congrArg List.tail hprog))
    · rw [makeAccess_of_ne_nil ht hl]
      have hacc' : s.Accessed { s.perform a with todo := l } := hacc.withCommand _ l _
      exact .accesses hs hacc' (fun b hb => hacc'.allowed (hallowed b (by rw [ht]; exact List.mem_cons_of_mem a hb)))
        (fun hf => absurd hf hl) (.inl hprog)

/-- The rest of start goes on. -/
theorem effect_of_priming {s : State} {left : List Access} (ht : s.todo = left ++ [.startEngine]) (hp : s.Priming left)
    (whole : Bool) : ForegroundEffect s (if whole then s.finishCommand else s.makeAccess) whole := by
  have hs := State.inStart_of_left ht
  cases whole with
  | true =>
    refine .arms left hp ?_ (.inl hs)
    simp only [if_true, State.finishCommand, ht, performAll_append, performAll_cons, performAll_nil]
  | false =>
    simp only [Bool.false_eq_true, if_false]
    cases left with
    | nil => exact .arms [] hp (makeAccess_of_last ht) (.inl hs)
    | cons a left =>
      exact .primes [a] left hp (makeAccess_of_ne_nil ht (by simp)) (.inl hs)

/-- The current command runs, or begins: its accesses are allowed, or they are start's. -/
theorem effect_of_accesses {s t : State} (h : s.Inv) (ht : s.todo = []) {w : CmdWord} {p : List CmdWord} {i : Instr}
    (hp : s.prog = w :: p) (hd : decode w = .ok i) {l : List Access} (hl : accessesOf i s = some l) {whole : Bool}
    (hw : t = if whole = true ∨ l = [] then (s.performAll l).endCommand else { s with todo := l }) :
    ForegroundEffect s t whole := by
  have hs : s.inStart = false := State.inStart_of_allowed fun a ha => by rw [ht] at ha; cases ha
  by_cases hstart : i = .showCmd ∧ l ≠ []
  · obtain ⟨rfl, hne⟩ := hstart
    obtain ⟨hn, hr, rfl⟩ := (accessesOf_showCmd_eq_some hl).resolve_left hne
    have hpriming := h.priming_of_ready ht hn hr
    have hshow : s.beginsShow := ⟨ht, hn, hr, w, p, hp, hd⟩
    cases whole with
    | true =>
      rw [if_pos (.inl rfl), performAll_append] at hw
      exact .arms _ hpriming hw (.inr ⟨rfl, hshow⟩)
    | false =>
      rw [if_neg (by simp [hne])] at hw
      exact .primes [] _ hpriming hw (.inr ⟨rfl, hshow⟩)
  · have hallowed : ∀ a ∈ l, a.AllowedIn s := by
      by_cases hi : i = .showCmd
      · have hnil : l = [] := Classical.byContradiction fun hne => hstart ⟨hi, hne⟩
        rw [hnil]
        exact fun a ha => by cases ha
      · exact accessesOf_allowed hi hl
    have hacc := accessed_performAll hallowed
    split at hw
    · subst hw
      exact .accesses hs (hacc.withCommand _ [] []) (fun a ha => by cases ha) (fun _ => rfl)
        (.inr (congrArg List.tail (performAll_prog s _)))
    · next hcond =>
      subst hw
      have hacc' : s.Accessed { s with todo := l } := (State.Accessed.refl s).withCommand _ l _
      exact .accesses hs hacc' (fun a ha => hacc'.allowed (hallowed a ha))
        (fun hf => absurd (.inr hf) hcond) (.inl rfl)

/-- A turn on which the foreground waits, or has nothing left to do. -/
theorem effect_of_held {s : State} (h : s.Inv) (ht : s.todo = []) (whole : Bool) : ForegroundEffect s s whole := by
  have hs : s.inStart = false := State.inStart_of_allowed fun a ha => by rw [ht] at ha; cases ha
  exact .accesses hs (.refl s) (h.allowed hs) h.locals (.inl rfl)

theorem foregroundCase_effect {s t : State} {whole : Bool} (h : s.Inv) (hc : ForegroundCase s t whole) :
    ForegroundEffect s t whole := by
  cases hc with
  | goesOn a l ht heq =>
    subst heq
    rcases Bool.eq_false_or_eq_true s.inStart with hs | hs
    · obtain ⟨left, hleft, hp⟩ := h.priming hs
      exact effect_of_priming hleft hp whole
    · exact effect_of_allowed h hs ht whole
  | done ht hp heq => subst heq; exact effect_of_held h ht whole
  | runs hw w p i ht hp hd hctx hexec =>
    subst hw
    cases hacc : accessesOf i s with
    | none =>
      rw [exec_of_held hctx hacc] at hexec
      cases hexec
      exact effect_of_held h ht true
    | some l =>
      rw [exec_eq_performAll ht (h.locals ht) hacc] at hexec
      cases hexec
      exact effect_of_accesses h ht hp hd hacc (if_pos (.inl rfl)).symm
  | begins hw w p i ht hp hd hctx heq =>
    subst hw
    cases hacc : accessesOf i s with
    | none =>
      rw [beginCommand_of_held hacc] at heq
      subst heq
      exact effect_of_held h ht false
    | some l =>
      refine effect_of_accesses h ht hp hd hacc (heq.trans ?_)
      rw [beginCommand_of_accesses hacc]
      by_cases hl : l = []
      · rw [if_pos hl, if_pos (.inr hl), hl, performAll_nil]
      · rw [if_neg hl, if_neg (by simp [hl])]

/-! ### The invariant -/

/-- The state all that is left of start leads to. -/
theorem State.Inv.sound_armed {s : State} (h : s.Inv) {l : List Access} (hp : s.Priming l) :
    ((s.performAll l).perform .startEngine).endCommand.Sound := by
  obtain ⟨hshape, hdone⟩ := State.Priming.performAll l (rest := []) h.shape (by rwa [List.append_nil])
  exact (State.Priming.sound_armed hshape hdone).withCommand _ _ [] []

theorem Priming_withTodo {s : State} {l : List Access} (h : s.Priming l) (td : List Access) :
    ({ s with todo := td } : State).Priming l :=
  ⟨h.pixels, h.begun, h.engine, h.noEvent, h.accesses, by rw [performAll_todo]; exact h.notReady,
    by rw [performAll_todo]; exact h.phase, by rw [performAll_todo]; exact h.cursor,
    by rw [performAll_todo]; exact h.events⟩

theorem State.Inv.foregroundEffect {s t : State} {whole : Bool} (h : s.Inv) (he : ForegroundEffect s t whole) : t.Inv := by
  cases he with
  | accesses hs hacc ht hl hp => exact (hacc.sound (h.sound hs)).inv ht hl
  | primes l rest hp heq hw =>
    obtain ⟨hshape, hrest⟩ := hp.performAll l h.shape
    subst heq
    exact (hshape.withCommand _ _ _ _).inv_of_priming rfl (Priming_withTodo hrest _)
  | arms l hp heq hw =>
    subst heq
    exact (h.sound_armed hp).inv (fun a ha => by cases ha) fun _ => rfl

/-- Every step keeps the invariant. -/
theorem State.Inv.of_step {s t : State} (h : s.Inv) (ht : step s = .next t) : t.Inv := by
  cases step_next_cases ht with
  | event e hd hexec =>
    obtain ⟨-, -, rfl⟩ := exec_event_next_iff.mp hexec
    exact h.afterEvent hd
  | nothing hd hts heq => subst heq; exact h
  | engine hd ts hts hstep => exact (h.withTurns ts).of_engineStep hstep
  | error hd ts hts heq => subst heq; exact (h.withTurns ts).of_reportError
  | joint hd ts hts heq => subst heq; exact h.withTurns ts
  | foreground hd ts whole hts hcase =>
    have h' := h.withTurns ts
    exact h'.foregroundEffect (foregroundCase_effect h' hcase)

/-- Settles O45: the step is one of its cases; an event and the engine keep the alternation of the halves, a turn of the
foreground does one of the three things of `ForegroundEffect`. -/
theorem stepKeepsInvariant : Obligations.StepKeepsInvariant := fun _ _ => State.Inv.of_step

end Sys2Proof.Machine
end

section
/-! PROOFS. The families 60_exceptions.md sections 1 and 5, 20_memory.md section 5, 70_reset_and_hazards.md sections 3 and 4
and 10_state.md section 7: what every step from a state with the invariant does and leaves alone. -/

namespace Sys2Proof.Machine

/-! ### What a step from a state with the invariant can do -/

theorem eventEnabled_of_dueEvent {s : State} {e : Event} (h : s.dueEvent = some e) : s.eventEnabled e = true := by
  obtain ⟨hi, p, hp, rfl⟩ := (dueEvent_eq_some_iff s e).mp h
  split
  · exact (eventEnabled_iff s .err).mpr ⟨hi, .inr ⟨rfl, by rw [hp]; exact Option.some_ne_none p⟩⟩
  · exact eventEnabled_of_pend hi hp

/-- Everything a step from a state with the invariant can be: a due event's handler; a turn used up with no effect; the
engine's step; its error report; a turn of the foreground's. -/
inductive StepEffect (s t : State) : Prop where
  | event (e : Event) (hd : s.dueEvent = some e) (h : t = s.afterEvent e)
  | idle (ts : List Turn) (hts : ts ⊆ s.turns) (h : t = { s with turns := ts })
  | engine (ts : List Turn) (hts : s.turns = .engine :: ts) (hr : s.hwRun = true) (hp : s.pend = none)
      (h : t = ({ s with turns := ts } : State).afterEngine)
  | error (ts : List Turn) (hts : s.turns = .hwError :: ts) (hr : s.hwRun = true) (hp : s.pend = none)
      (h : t = { s with turns := ts, pend := some .err })
  | foreground (ts : List Turn) (whole : Bool) (hd : s.dueEvent = none)
      (hts : s.turns = (if whole then .foreground else .access) :: ts)
      (h : ForegroundEffect { s with turns := ts } t whole)

theorem State.Inv.stepEffect {s t : State} (h : s.Inv) (ht : step s = .next t) : StepEffect s t := by
  have htail : ∀ {x : Turn} {ts : List Turn}, s.turns = x :: ts → ts ⊆ s.turns := fun hts => by
    rw [hts]
    exact List.subset_cons_self _ _
  cases step_next_cases ht with
  | event e hd hexec =>
    obtain ⟨-, -, rfl⟩ := exec_event_next_iff.mp hexec
    exact .event e hd rfl
  | nothing hd hts heq => subst heq; exact .idle t.turns (fun _ hx => hx) rfl
  | engine hd ts hts hstep =>
    rcases engineStep_eq_or_afterEngine hstep with rfl | ⟨hr, hp, -, rfl⟩
    · exact .idle ts (htail hts) rfl
    · exact .engine ts hts hr hp rfl
  | error hd ts hts heq =>
    unfold reportError at heq
    split at heq
    · next hc =>
      simp only [Bool.and_eq_true, decide_eq_true_eq] at hc
      exact .error ts hts hc.1.1 hc.2 heq
    · exact .idle ts (htail hts) heq
  | joint hd ts hts heq => exact .idle ts (htail hts) heq
  | foreground hd ts whole hts hcase => exact .foreground ts whole hd hts (foregroundCase_effect (h.withTurns ts) hcase)

/-! ### Nothing faults -/

/-- A foreground command always answers. -/
theorem exists_exec_foreground {s : State} {i : Instr} (hc : i.context = .foreground) (ht : s.todo = [])
    (hl : s.loaded = []) : ∃ t, exec i s = .next t := by
  cases h : accessesOf i s with
  | none => exact ⟨_, exec_of_held hc h⟩
  | some l => exact ⟨_, exec_eq_performAll ht hl h⟩

/-- The engine's step answers while its pointer is in the buffer. -/
theorem exists_engineStep {s : State} (hrp : s.rp.toNat < s.bufLen) : ∃ t, engineStep s = .next t := by
  by_cases hen : s.hwRun = true ∧ s.pend = none
  · exact ⟨_, engineStep_of_enabled hen.1 hen.2 hrp⟩
  · exact ⟨_, engineStep_of_disabled hen⟩

/-- A turn of the foreground answers, or refuses its current word. -/
theorem State.Inv.step_foreground {s : State} (h : s.Inv) {ts : List Turn} {whole : Bool} (hd : s.dueEvent = none)
    (hts : s.turns = (if whole then .foreground else .access) :: ts) :
    (∃ t, step s = .next t) ∨ ((∃ r, step s = .refused r) ∧ s.todo = [] ∧
      ∃ w p, s.prog = w :: p ∧ ∀ i, decode w = .ok i → i.context = .interrupt) := by
  by_cases htd : s.todo = []
  · cases hp : s.prog with
    | nil => exact .inl ⟨_, step_of_done hd hts htd hp⟩
    | cons w p =>
      cases hw : decode w with
      | error d =>
        exact .inr ⟨⟨_, step_of_undecodable hd hts htd hp hw⟩, htd, w, p, rfl, fun i hi => by rw [hw] at hi; cases hi⟩
      | ok i =>
        cases hc : i.context with
        | interrupt =>
          exact .inr ⟨⟨_, step_of_event_word hd hts htd hp hw hc⟩, htd, w, p, rfl, fun j hj => by
            rw [hw] at hj; cases hj; exact hc⟩
        | foreground =>
          have hstep := step_of_word hd hts htd hp hw (wfIn_of_context hc)
          cases whole with
          | true =>
            obtain ⟨t, ht⟩ := exists_exec_foreground (s := { s with turns := ts }) hc htd (h.locals htd)
            exact .inl ⟨t, hstep.trans ht⟩
          | false => exact .inl ⟨_, hstep⟩
  · exact .inl ⟨_, step_of_todo hd hts htd⟩

/-- Under the invariant a step goes on, or refuses a word of the program. -/
theorem State.Inv.step_next_or_refused {s : State} (h : s.Inv) :
    (∃ t, step s = .next t) ∨ ((∃ r, step s = .refused r) ∧ s.todo = [] ∧
      ∃ w p, s.prog = w :: p ∧ ∀ i, decode w = .ok i → i.context = .interrupt) := by
  cases hd : s.dueEvent with
  | some e =>
    exact .inl ⟨_, (step_of_dueEvent hd).trans
      (exec_event_of_enabled (eventEnabled_of_dueEvent hd) (mayFault_of_aligned h.aligned e))⟩
  | none =>
    match hts : s.turns with
    | [] => exact .inl ⟨_, step_of_no_turn hd hts⟩
    | .engine :: ts =>
      obtain ⟨t, ht⟩ := exists_engineStep (s := { s with turns := ts }) h.rpRange
      exact .inl ⟨t, (step_of_engine hd hts).trans ht⟩
    | .hwError :: ts => exact .inl ⟨_, step_of_hwError hd hts⟩
    | .jointError :: ts => exact .inl ⟨_, step_of_jointError hd hts⟩
    | .foreground :: ts => exact h.step_foreground (whole := true) hd hts
    | .access :: ts => exact h.step_foreground (whole := false) hd hts

/-- Settles O46. -/
theorem nothingFaultsUnderInvariant : Obligations.NothingFaultsUnderInvariant := by
  intro s h
  rcases h.step_next_or_refused with ⟨t, ht⟩ | ⟨⟨r, hr⟩, hword⟩
  · rw [ht]
    exact ⟨fun f hf => (by cases hf), fun r hr => (by cases hr)⟩
  · rw [hr]
    exact ⟨fun f hf => (by cases hf), fun _ _ => hword⟩

/-! ### The priming writes nothing but DMA, the cursor, `ready`, the phase, `irq_en` and the local bytes -/

theorem performAll_frame_of_primes {s : State} {l : List Access} (h : ∀ a ∈ l, a.PrimesIn s) :
    s.performAll l = { s with
      dma := (s.performAll l).dma
      outIndex := (s.performAll l).outIndex
      ready := (s.performAll l).ready
      phase := (s.performAll l).phase
      irqEn := (s.performAll l).irqEn
      loaded := (s.performAll l).loaded } := by
  induction l generalizing s with
  | nil => rfl
  | cons a l ih =>
    have hrest := ih fun b hb => (h b (List.mem_cons_of_mem a hb)).of_sameConfig (perform_sameConfig s a)
    have hfirst := perform_frame_of_primes (h a List.mem_cons_self)
    rw [performAll_cons]
    generalize hu : (s.perform a).performAll l = u at hrest ⊢
    rw [hfirst] at hrest
    exact hrest

theorem State.Priming.frame {s : State} {l rest : List Access} (h : s.Priming (l ++ rest)) :
    s.performAll l = { s with
      dma := (s.performAll l).dma
      outIndex := (s.performAll l).outIndex
      ready := (s.performAll l).ready
      phase := (s.performAll l).phase
      irqEn := (s.performAll l).irqEn
      loaded := (s.performAll l).loaded } :=
  performAll_frame_of_primes fun a ha => h.accesses a (List.mem_append_left rest ha)

theorem State.Priming.frame_all {s : State} {l : List Access} (h : s.Priming l) :
    s.performAll l = { s with
      dma := (s.performAll l).dma
      outIndex := (s.performAll l).outIndex
      ready := (s.performAll l).ready
      phase := (s.performAll l).phase
      irqEn := (s.performAll l).irqEn
      loaded := (s.performAll l).loaded } :=
  performAll_frame_of_primes h.accesses

/-! ### Starting and stopping the engine (60_exceptions.md R203, R204) -/

theorem outputs_foregroundEffect {s t : State} {whole : Bool} (h : ForegroundEffect s t whole) :
    (t.outputs = s.outputs ∧ t.hwRun = s.hwRun) ∨
    (t.outputs = s.outputs ++ [.startPwmDma (16 * s.bpp)] ∧ s.hwRun = false ∧ t.hwRun = true) := by
  cases h with
  | accesses hs hacc ht hl hp => exact .inl ⟨hacc.outputs, hacc.hwRun⟩
  | primes l rest hp heq hw =>
    subst heq
    rw [hp.frame]
    exact .inl ⟨rfl, rfl⟩
  | arms l hp heq hw =>
    subst heq
    rw [hp.frame_all]
    exact .inr ⟨rfl, hp.engine, rfl⟩

/-- Settles O50. -/
theorem engineStartsOnlyWhileStopped : Obligations.EngineStartsOnlyWhileStopped := by
  intro s t h ht
  cases h.stepEffect ht with
  | event e hd heq =>
    have hr := (h.in_flight_of_dueEvent hd).1
    subst heq
    cases e with
    | ht => exact .inl ⟨rfl, rfl⟩
    | tc =>
      simp only [State.afterEvent, State.afterTc]
      split
      · exact .inr (.inr ⟨rfl, hr, rfl⟩)
      · exact .inl ⟨rfl, rfl⟩
    | err => exact .inr (.inr ⟨rfl, hr, rfl⟩)
  | idle ts hts heq => subst heq; exact .inl ⟨rfl, rfl⟩
  | engine ts hts hr hp heq => subst heq; exact .inl ⟨rfl, rfl⟩
  | error ts hts hr hp heq => subst heq; exact .inl ⟨rfl, rfl⟩
  | foreground ts whole hd hts heff => exact (outputs_foregroundEffect heff).imp_right .inl

/-! ### The waits (70_reset_and_hazards.md R246) -/

/-- A wait stays over when `ready` is not taken back and the cursor not put back. -/
theorem waits_last {s t : State} (hready : s.ready = true → t.ready = true) (hbpp : t.bpp = s.bpp)
    (hcursor : s.outIndex.toNat ≤ t.outIndex.toNat) :
    (s.ready = true → t.ready = true) ∧ (∀ p, s.cursorWaitDone p = true → t.cursorWaitDone p = true) := by
  refine ⟨hready, fun p hp => (cursorWaitDone_iff t p).mpr ?_⟩
  rw [hbpp]
  exact ((cursorWaitDone_iff s p).mp hp).imp hready fun h => Nat.le_trans h hcursor

theorem mem_foreground_turns {whole : Bool} {s : State} {ts : List Turn}
    (hts : s.turns = (if whole then .foreground else .access) :: ts) :
    s.turns.head? = some .foreground ∨ s.turns.head? = some .access := by
  rw [hts]
  cases whole
  · exact .inr rfl
  · exact .inl rfl

/-- Settles O51: only start takes `ready` back, and only start puts the cursor back. -/
theorem waitConditionsLast : Obligations.WaitConditionsLast := by
  intro s t h ht hstarts
  cases h.stepEffect ht with
  | event e hd heq =>
    have hready := (h.in_flight_of_dueEvent hd).2.1
    subst heq
    refine waits_last (fun hr => by rw [hready] at hr; cases hr) ?_ (h.cursor_le_afterEvent hd)
    rw [afterEvent_frame]
    rfl
  | idle ts hts heq => subst heq; exact waits_last id rfl (Nat.le_refl _)
  | engine ts hts hr hp heq => subst heq; exact waits_last id rfl (Nat.le_refl _)
  | error ts hts hr hp heq => subst heq; exact waits_last id rfl (Nat.le_refl _)
  | foreground ts whole hd hts heff =>
    have hnot : s.inStart = false := Bool.eq_false_iff.mpr fun hs => hstarts ⟨hd, .inr ⟨mem_foreground_turns hts, hs⟩⟩
    cases heff with
    | accesses hs hacc ht hl hp =>
      exact waits_last (fun hr => hacc.ready.trans hr) hacc.bpp (Nat.le_of_eq (by rw [hacc.outIndex]))
    | primes l rest hp heq hw =>
      rcases hw with hs | ⟨rfl, -⟩
      · exact absurd (hs.symm.trans hnot) (by decide)
      · subst heq
        exact waits_last id rfl (Nat.le_refl _)
    | arms l hp heq hw =>
      rcases hw with hs | ⟨rfl, htd, hn, hready, hshow⟩
      · exact absurd (hs.symm.trans hnot) (by decide)
      · exact absurd ⟨hd, .inl ⟨by rw [hts]; rfl, htd, hn, hready, hshow⟩⟩ hstarts

/-! ### The frame in flight (20_memory.md R67) -/

theorem fbRead_foregroundEffect {s t : State} {whole : Bool} (h : ForegroundEffect s t whole) (hr : s.ready = false)
    {a : Nat} (ha : s.outIndex.toNat ≤ a) : t.fbRead a = s.fbRead a := by
  cases h with
  | accesses hs hacc ht hl hp => exact hacc.unsent hr a ha
  | primes l rest hp heq hw =>
    subst heq
    rw [hp.frame]
    rfl
  | arms l hp heq hw =>
    subst heq
    rw [hp.frame_all]
    rfl

/-- Settles O52. -/
theorem frameInFlightIsProtected : Obligations.FrameInFlightIsProtected := by
  intro s t h hr ht a ha
  cases h.stepEffect ht with
  | event e hd heq =>
    subst heq
    rw [afterEvent_frame]
    rfl
  | idle ts hts heq => subst heq; rfl
  | engine ts hts hr hp heq => subst heq; rfl
  | error ts hts hr hp heq => subst heq; rfl
  | foreground ts whole hd hts heff => exact fbRead_foregroundEffect heff hr ha

/-- Settles O53: HT comes with the engine at the start of half B and refills half A, TC with the engine at the start of half
A and refills half B; ERR refills nothing. -/
theorem handlerSparesTheHalfBeingRead : Obligations.HandlerSparesTheHalfBeingRead := by
  intro s t e h hd ht x hx hhalf
  have hH : s.halfLen = 8 * s.bpp := rfl
  have hb := bpp_pos s
  have hr := (h.in_flight_of_dueEvent hd).1
  have heq : t = s.afterEvent e := by
    rw [step_of_dueEvent hd] at ht
    exact (exec_event_next_iff.mp ht).2.2
  subst heq
  cases e with
  | ht =>
    obtain ⟨-, -, hrp⟩ := (h.flying hr).of_ht (pend_of_dueEvent hd (by decide))
    refine (holdsUnit_refilled s .a).2 x ?_
    simp only [State.halfBase]
    omega
  | tc =>
    obtain ⟨-, -, hrp⟩ := (h.flying hr).of_tc (pend_of_dueEvent hd (by decide))
    refine (holdsUnit_afterTc s).2 x ?_
    simp only [State.halfBase]
    omega
  | err => rfl

/-! ### Handlers and accesses commute (20_memory.md R64) -/

/-- A handler reads no byte before the cursor, and neither the results nor the local bytes of a command. -/
theorem afterEvent_withForeground {s : State} (m : Memory 8) (r : List ColorWord) (ld : List Byte)
    (hm : ∀ x, s.outIndex.toNat ≤ x → ({ s with fb := m, returned := r, loaded := ld } : State).fbRead x = s.fbRead x)
    (e : Event) :
    ({ s with fb := m, returned := r, loaded := ld } : State).afterEvent e =
      { s.afterEvent e with fb := m, returned := r, loaded := ld } := by
  have hentries : ({ s with fb := m, returned := r, loaded := ld } : State).cursorEntries = s.cursorEntries := by
    have hrecord : ({ s with fb := m, returned := r, loaded := ld } : State).encodeRecord s.outIndex.toNat =
        s.encodeRecord s.outIndex.toNat :=
      List.flatMap_congr fun j _ => congrArg s.encodeByte (hm _ (Nat.le_add_right _ j))
    unfold State.cursorEntries
    split
    · next hin => rw [if_pos (show s.cursorInData = true from hin)]; exact hrecord
    · next hin => rw [if_neg (show ¬s.cursorInData = true from hin)]; rfl
  have hrefilled : ∀ h, ({ s with fb := m, returned := r, loaded := ld } : State).refilled h =
      { s.refilled h with fb := m, returned := r, loaded := ld } := fun h => by
    rw [State.refilled, hentries]
    rfl
  cases e with
  | err => rfl
  | ht => exact hrefilled .a
  | tc =>
    simp only [State.afterEvent]
    by_cases hc : (s.n.toNat + 2) * s.bpp ≤ s.advancedCursor.toNat
    · rw [afterTc_of_full hc, afterTc_of_full (s := { s with fb := m, returned := r, loaded := ld }) hc,
        State.completed, hentries]
      rfl
    · rw [afterTc_of_short hc, afterTc_of_short (s := { s with fb := m, returned := r, loaded := ld }) hc]
      exact hrefilled .b

theorem exec_event_withForeground {s t : State} (m : Memory 8) (r : List ColorWord) (ld : List Byte)
    (hm : ∀ x, s.outIndex.toNat ≤ x → ({ s with fb := m, returned := r, loaded := ld } : State).fbRead x = s.fbRead x)
    {e : Event} (h : exec e.instr s = .next t) :
    exec e.instr { s with fb := m, returned := r, loaded := ld } =
      .next { t with fb := m, returned := r, loaded := ld } := by
  obtain ⟨hen, hfault, rfl⟩ := exec_event_next_iff.mp h
  exact exec_event_next_iff.mpr ⟨hen, hfault, (afterEvent_withForeground m r ld hm e).symm⟩

/-- While a transfer is active no access that is allowed writes the brightness. -/
theorem perform_eq_of_allowed {s : State} {a : Access} (ha : a.AllowedIn s) (hr : s.ready = false) :
    s.perform a = { s with
      fb := (s.perform a).fb
      returned := (s.perform a).returned
      loaded := (s.perform a).loaded } := by
  cases a with
  | setBrightness b => exact absurd ha (by simp [Access.AllowedIn, hr])
  | storeRescaled x b => exact absurd ha.2 (by simp [hr])
  | storeFb x v => rfl
  | storeScaled x v => rfl
  | loadFb x => rfl
  | returnColour => rfl
  | returnZero => rfl
  | _ => exact ha.elim

/-- What an access of a command does is not changed by what a handler writes. -/
theorem perform_afterEvent {s : State} {a : Access} (ha : a.AllowedIn s) (hr : s.ready = false) (e : Event) :
    (s.afterEvent e).perform a = { s.afterEvent e with
      fb := (s.perform a).fb
      returned := (s.perform a).returned
      loaded := (s.perform a).loaded } := by
  rw [afterEvent_frame]
  cases a with
  | setBrightness b => exact absurd ha (by simp [Access.AllowedIn, hr])
  | storeRescaled x b => exact absurd ha.2 (by simp [hr])
  | storeFb x v => rfl
  | storeScaled x v => rfl
  | loadFb x => rfl
  | returnColour => rfl
  | returnZero => rfl
  | _ => exact ha.elim

/-- Settles O54: the handler reads only what the access does not write, and writes only what the access does not read. -/
theorem handlerCommutesWithEarlierStore : Obligations.HandlerCommutesWithEarlierStore := by
  refine ⟨fun s t e a ha hr h => ?_, fun s t e a v ha h => ?_⟩
  · have hperform := perform_eq_of_allowed ha hr
    have hunsent : ∀ x, s.outIndex.toNat ≤ x → (s.perform a).fbRead x = s.fbRead x := fun x hx =>
      fbRead_perform_of_allowed ha hr hx
    have ht := (exec_event_next_iff.mp h).2.2
    rw [hperform] at hunsent ⊢
    rw [exec_event_withForeground _ _ _ hunsent h, ht, perform_afterEvent ha hr e]
  · have hunsent : ∀ x, s.outIndex.toNat ≤ x → (s.fbWrite a v).fbRead x = s.fbRead x := fun x hx => by
      rw [fbRead_fbWrite, if_neg (by omega)]
    have hframe := afterEvent_frame s e
    have ht := (exec_event_next_iff.mp h).2.2
    refine (exec_event_withForeground (Memory.set s.fb a v) s.returned s.loaded hunsent h).trans (congrArg _ ?_)
    rw [ht, hframe]
    rfl

/-! ### The table of observable states (10_state.md R37, 42_scheduler.md R143) -/

theorem State.AtObservableRow.ready_iff {s : State} (h : s.AtObservableRow) :
    s.ready = true ↔ s.phase = .idle ∨ s.phase = .complete := by
  rcases h with ⟨hp, hr, -⟩ | ⟨hp, hr, -⟩ | ⟨hp, hr, -⟩ | ⟨hp, hr, -⟩ <;> simp [hp, hr]

theorem State.AtObservableRow.phase_of_hwRun {s : State} (h : s.AtObservableRow) (hr : s.hwRun = true) :
    s.phase = .streaming ∨ s.phase = .draining := by
  rcases h with ⟨-, -, hf, -⟩ | ⟨hp, -⟩ | ⟨hp, -⟩ | ⟨-, -, hf, -⟩
  · rw [hr] at hf; cases hf
  · exact .inl hp
  · exact .inr hp
  · rw [hr] at hf; cases hf

theorem State.AtObservableRow.not_priming {s : State} (h : s.AtObservableRow) : s.phase ≠ .priming := by
  rcases h with ⟨hp, -⟩ | ⟨hp, -⟩ | ⟨hp, -⟩ | ⟨hp, -⟩ <;> rw [hp] <;> decide

/-- The priming makes the phase Priming, or leaves it. -/
theorem phase_performAll_of_primes {s : State} {l : List Access} (h : ∀ a ∈ l, a.PrimesIn s) :
    (s.performAll l).phase = s.phase ∨ (s.performAll l).phase = .priming := by
  induction l generalizing s with
  | nil => exact .inl rfl
  | cons a l ih =>
    have ha := h a List.mem_cons_self
    have hfirst : (s.perform a).phase = s.phase ∨ (s.perform a).phase = .priming := by
      cases a with
      | enterPriming => exact .inr rfl
      | startEngine => exact ha.elim
      | _ => exact .inl rfl
    rcases ih fun b hb => (h b (List.mem_cons_of_mem a hb)).of_sameConfig (perform_sameConfig s a) with hrest | hrest
    · exact hfirst.imp hrest.trans hrest.trans
    · exact .inr hrest

theorem phaseStep_foregroundEffect {s t : State} {ts : List Turn} {whole : Bool}
    (h : ForegroundEffect { s with turns := ts } t whole) : s.PhaseStep t := by
  cases h with
  | accesses hs hacc ht hl hp => exact .inl hacc.phase
  | primes l rest hp heq hw =>
    subst heq
    rcases phase_performAll_of_primes fun a ha => hp.accesses a (List.mem_append_left rest ha) with hsame | hpriming
    · exact .inl hsame
    · rcases hp.begun with hb | hb | hb
      · exact .inr (.inl ⟨.inl hb, .inl hpriming, hp.pixels⟩)
      · exact .inr (.inl ⟨.inr hb, .inl hpriming, hp.pixels⟩)
      · exact .inl (hpriming.trans hb.symm)
  | arms l hp heq hw =>
    subst heq
    rcases hp.begun with hb | hb | hb
    · exact .inr (.inl ⟨.inl hb, .inr rfl, hp.pixels⟩)
    · exact .inr (.inl ⟨.inr hb, .inr rfl, hp.pixels⟩)
    · exact .inr (.inr (.inl ⟨hb, rfl, rfl⟩))

/-- A refill moves the phase from Streaming to Draining when the cursor passes the pixel data, and never back. -/
theorem State.Inv.phaseStep_refilled {s : State} (h : s.Inv) (hr : s.hwRun = true) (hf : Half) :
    s.PhaseStep (s.refilled hf) := by
  have hlab := h.labelled_of_hwRun hr
  have hgrow : s.outIndex.toNat ≤ s.advancedCursor.toNat := by
    rw [(h.cursor_eq hr).1, (h.advancedCursor hr).1]
    exact Nat.mul_le_mul_right _ (by omega)
  by_cases hpast : s.n.toNat * s.bpp < s.advancedCursor.toNat
  · have hphase : (s.refilled hf).phase = .draining := if_pos hpast
    rcases hlab.row.phase_of_hwRun hr with hp | hp
    · exact .inr (.inr (.inr (.inl ⟨hp, hphase, hpast⟩)))
    · exact .inl (hphase.trans hp.symm)
  · have hphase : (s.refilled hf).phase = .streaming := if_neg hpast
    rcases hlab.row.phase_of_hwRun hr with hp | hp
    · exact .inl (hphase.trans hp.symm)
    · exact absurd (Nat.lt_of_lt_of_le ((hlab.draining hr).mp hp) hgrow) hpast

/-- The completing TC finds the phase Draining: the cursor has passed the pixel data an event before. -/
theorem State.Inv.phaseStep_completed {s : State} (h : s.Inv) (hr : s.hwRun = true)
    (hfull : (s.n.toNat + 2) * s.bpp ≤ s.advancedCursor.toNat) : s.PhaseStep s.completed := by
  have hfull' := hfull
  rw [(h.advancedCursor hr).1, Nat.mul_le_mul_right_iff (bpp_pos s)] at hfull'
  have hpast : s.n.toNat * s.bpp < s.outIndex.toNat := by
    rw [(h.cursor_eq hr).1]
    exact Nat.mul_lt_mul_of_pos_right (by omega) (bpp_pos s)
  exact .inr (.inr (.inr (.inr (.inl ⟨((h.labelled_of_hwRun hr).draining hr).mpr hpast, rfl, hfull⟩))))

theorem State.Inv.phaseStep {s t : State} (h : s.Inv) (ht : step s = .next t) : s.PhaseStep t := by
  cases h.stepEffect ht with
  | event e hd heq =>
    have hr := (h.in_flight_of_dueEvent hd).1
    subst heq
    cases e with
    | ht => exact h.phaseStep_refilled hr .a
    | tc =>
      simp only [State.afterEvent, State.afterTc]
      split
      · next hfull => exact h.phaseStep_completed hr hfull
      · exact h.phaseStep_refilled hr .b
    | err => exact .inr (.inr (.inr (.inr (.inr ⟨(h.labelled_of_hwRun hr).row.phase_of_hwRun hr, rfl, hd⟩))))
  | idle ts hts heq => subst heq; exact .inl rfl
  | engine ts hts hr hp heq => subst heq; exact .inl rfl
  | error ts hts hr hp heq => subst heq; exact .inl rfl
  | foreground ts whole hd hts heff => exact phaseStep_foregroundEffect heff

/-- What every step keeps every run keeps. -/
theorem run_keeps {P : State → Prop} (hstep : ∀ {s t : State}, P s → step s = .next t → P t) {k : Nat} {s t : State}
    (hs : P s) (h : Host.Core.run core k s = .next t) : P t := by
  induction k generalizing s with
  | zero =>
    rw [run_zero] at h
    cases h
    exact hs
  | succ k ih =>
    cases hu : step s with
    | next u =>
      rw [run_succ_of_step hu] at h
      exact ih (hstep hs hu) h
    | fault f =>
      have hcore : core.step s = .fault f := hu
      simp only [Host.Core.run, hcore] at h
      cases h
    | refused r =>
      have hcore : core.step s = .refused r := hu
      simp only [Host.Core.run, hcore] at h
      cases h

/-- Settles O60. -/
theorem observableRowsHold : Obligations.ObservableRowsHold := by
  intro s t k hs hrun
  have h : t.Inv := run_keeps State.Inv.of_step hs hrun
  refine ⟨fun hns => ?_, fun hp => ?_, fun hst => (h.stopped_of_inStart hst).1, fun hstop => ?_, fun u => h.phaseStep⟩
  · have hlab := h.labelled hns
    exact ⟨hlab.row, hlab.row.ready_iff, hlab.draining⟩
  · refine Classical.byContradiction fun hns => (h.labelled ?_).row.not_priming hp
    exact Bool.eq_false_iff.mpr hns
  · have hpend : t.pend = none := hstop.elim (fun hst => (h.stopped_of_inStart hst).2) h.stopped
    exact ⟨hpend, dueEvent_of_pend_none hpend⟩

/-! ### A stalled engine (70_reset_and_hazards.md R248) -/

/-- `t` is a point of a run from `s` in which only the foreground has turns, with a transfer active and nothing pending. -/
structure State.StalledSince (s t : State) : Prop where
  inv      : t.Inv
  outside  : t.inStart = false
  notReady : t.ready = false
  noEvent  : t.pend = none
  turns    : ∀ x ∈ t.turns, x = .foreground ∨ x = .access
  cursor   : t.outIndex = s.outIndex
  bpp      : t.bpp = s.bpp

theorem State.StalledSince.of_step {s t u : State} (h : s.StalledSince t) (hu : step t = .next u) : s.StalledSince u := by
  have hinv := h.inv.of_step hu
  have hforeground : ∀ {x : Turn} {ts : List Turn}, t.turns = x :: ts → x = .foreground ∨ x = .access := fun hts =>
    h.turns _ (by rw [hts]; exact List.mem_cons_self)
  cases h.inv.stepEffect hu with
  | event e hd heq => rw [dueEvent_of_pend_none h.noEvent] at hd; cases hd
  | idle ts hts heq =>
    subst heq
    exact ⟨hinv, h.outside, h.notReady, h.noEvent, fun x hx => h.turns x (hts hx), h.cursor, h.bpp⟩
  | engine ts hts hr hp heq => rcases hforeground hts with hf | hf <;> cases hf
  | error ts hts hr hp heq => rcases hforeground hts with hf | hf <;> cases hf
  | foreground ts whole hd hts heff =>
    have hshow : ¬State.beginsShow { t with turns := ts } := fun hb => by
      have hr : t.ready = true := hb.2.2.1
      rw [h.notReady] at hr
      cases hr
    have hout : ¬State.inStart { t with turns := ts } = true := Bool.eq_false_iff.mp h.outside
    cases heff with
    | accesses hs hacc ht hl hp =>
      refine ⟨hinv, State.inStart_of_allowed ht, hacc.ready.trans h.notReady, hacc.pend.trans h.noEvent, fun x hx => ?_,
        hacc.outIndex.trans h.cursor, hacc.bpp.trans h.bpp⟩
      rw [hacc.turns] at hx
      exact h.turns x (by rw [hts]; exact List.mem_cons_of_mem _ hx)
    | primes l rest hp heq hw => exact absurd hw (not_or.mpr ⟨hout, fun hw => hshow hw.2⟩)
    | arms l hp heq hw => exact absurd hw (not_or.mpr ⟨hout, fun hw => hshow hw.2⟩)

/-- Settles O55. -/
theorem stalledEngineNeverReady : Obligations.StalledEngineNeverReady := by
  intro s t k hinv hout hready hpend hturns hrun
  have h : s.StalledSince t := run_keeps State.StalledSince.of_step ⟨hinv, hout, hready, hpend, hturns, rfl, rfl⟩ hrun
  refine ⟨h.notReady, h.cursor, fun p hp => ?_⟩
  rw [State.cursorWaitDone, hready] at hp
  rw [State.cursorWaitDone, h.notReady, h.cursor, h.bpp]
  exact hp

end Sys2Proof.Machine
end

section
/-! PROOFS. The families 42_scheduler.md sections 4 and 6 and 70_reset_and_hazards.md sections 4 and 5: a whole transfer. The
frame is cut into halves; while a transfer without errors runs, the engine reads half k after k events, the other half
holds half k + 1, and what is still to be encoded is the FrameBuffer as it was at SHOW. -/

namespace Sys2Proof.Machine

/-! ### The frame, half by half (42_scheduler.md R153) -/

/-- The entries of half `k` of the frame: the priming zeros, then unit k - 1. -/
def State.frameHalf (s : State) : Nat → List Duty
  | 0     => List.replicate s.halfLen 0
  | u + 1 => s.unitEntries u

theorem frameHalf_length (s : State) (k : Nat) : (s.frameHalf k).length = s.halfLen := by
  cases k with
  | zero => exact List.length_replicate
  | succ u =>
    simp only [State.frameHalf, State.unitEntries]
    split
    · exact encodeRecord_length s _
    · exact List.length_replicate

/-- What a completed transfer sends is its K(N) halves. -/
theorem frameWire_eq_halves (s : State) :
    s.frameWire = (List.range (completionEvent s.n.toNat)).flatMap s.frameHalf := by
  have hpixels : (List.range (s.n.toNat + 1)).flatMap s.frameHalf =
      List.replicate s.halfLen 0 ++ (List.range s.n.toNat).flatMap s.unitEntries := by
    rw [List.range_succ_eq_map, List.flatMap_cons, List.flatMap_map]
    rfl
  have hgap : s.frameHalf (s.n.toNat + 1) = List.replicate s.halfLen 0 := if_neg (Nat.lt_irrefl _)
  unfold State.frameWire completionEvent
  rcases Nat.mod_two_eq_zero_or_one s.n.toNat with heven | hodd
  · rw [if_pos heven, if_neg (by omega), List.range_succ, List.flatMap_append, hpixels, List.flatMap_singleton, hgap]
  · rw [if_neg (by omega), if_pos hodd, hpixels, List.append_nil]

/-- Where lists of one length are joined, entry k * H + i is entry i of list k. -/
theorem getElem?_flatMap_range {α : Type} {f : Nat → List α} {H : Nat} (hf : ∀ k, (f k).length = H) {m k i : Nat}
    (hk : k < m) (hi : i < H) : ((List.range m).flatMap f)[k * H + i]? = (f k)[i]? := by
  induction m with
  | zero => omega
  | succ m ih =>
    have hlen : ((List.range m).flatMap f).length = m * H := by simp [List.length_flatMap, hf]
    rw [List.range_succ, List.flatMap_append, List.flatMap_singleton]
    by_cases hlt : k < m
    · have hmul : (k + 1) * H ≤ m * H := Nat.mul_le_mul_right _ hlt
      rw [Nat.succ_mul] at hmul
      rw [List.getElem?_append_left (by omega), ih hlt]
    · obtain rfl : k = m := by omega
      rw [List.getElem?_append_right (by omega), hlen, Nat.add_sub_cancel_left]

theorem frameWire_getElem? (s : State) {k i : Nat} (hk : k < completionEvent s.n.toNat) (hi : i < s.halfLen) :
    s.frameWire[k * s.halfLen + i]? = some (((s.frameHalf k)[i]?).getD 0) := by
  rw [frameWire_eq_halves, getElem?_flatMap_range (frameHalf_length s) hk hi,
    List.getElem?_eq_getElem (by rw [frameHalf_length]; exact hi), Option.getD_some]

theorem frameWire_length (s : State) : s.frameWire.length = completionEvent s.n.toNat * s.halfLen := by
  simp [frameWire_eq_halves, List.length_flatMap, frameHalf_length]

/-! ### A transfer without errors -/

/-- The foreground and the environment do not disturb a transfer: no error is still to come, no SHOW and no meaningless word
is still to be run, and the foreground is not inside start. -/
structure State.Undisturbed (u : State) : Prop where
  outside : u.inStart = false
  turns   : ∀ x ∈ u.turns, x ≠ .hwError ∧ x ≠ .jointError
  prog    : ∀ w ∈ u.prog, ∃ i, decode w = .ok i ∧ i.context = .foreground ∧ i ≠ .showCmd

/-- The entries a transfer has put out when `k` events have been handled: k halves, and what of half k the engine has read. -/
def State.entriesOut (u : State) (k : Nat) : Nat :=
  k * u.halfLen + if u.pend = none then u.rp.toNat - k % 2 * u.halfLen else u.halfLen

/-- In `u` the transfer that sends the frame of `s` is in flight, with `k` events handled (42_scheduler.md R142, R149). -/
structure State.Sending (s u : State) (k : Nat) : Prop where
  inv     : u.Inv
  running : u.hwRun = true
  config  : s.SameConfig u
  early   : k < completionEvent s.n.toNat
  cursor  : u.outIndex.toNat = (k + 1) * s.bpp
  noError : u.pend ≠ some .err
  unsent  : ∀ a, u.outIndex.toNat ≤ a → u.fbRead a = s.fbRead a
  reading : ∀ i < s.halfLen, u.dmaRead (k % 2 * s.halfLen + i) = ((s.frameHalf k)[i]?).getD 0
  queued  : ∀ i < s.halfLen, u.dmaRead ((k + 1) % 2 * s.halfLen + i) = ((s.frameHalf (k + 1))[i]?).getD 0
  wire    : u.wire = s.wire ++ s.frameWire.take (u.entriesOut k)
  outputs : u.outputs = s.outputs ++ [.startPwmDma s.bufLen]

/-- In `u` the transfer that sends the frame of `s` is complete (42_scheduler.md R148, R153). -/
structure State.Sent (s u : State) : Prop where
  inv     : u.Inv
  ready   : u.ready = true
  phase   : u.phase = .complete
  hwRun   : u.hwRun = false
  irqEn   : u.irqEn = false
  pend    : u.pend = none
  rp      : u.rp = 0
  cursor  : u.outIndex.toNat = (completionEvent s.n.toNat + 1) * s.bpp
  wire    : u.wire = s.wire ++ s.frameWire
  outputs : u.outputs = s.outputs ++ [.startPwmDma s.bufLen, .stopPwmDma]

theorem State.SameConfig.halfLen {s u : State} (h : s.SameConfig u) : u.halfLen = s.halfLen := congrArg (8 * ·) h.bpp

theorem State.SameConfig.bufLen {s u : State} (h : s.SameConfig u) : u.bufLen = s.bufLen := congrArg (16 * ·) h.bpp

section
variable {s u : State} {k : Nat}

theorem State.Sending.eventsHandled (h : s.Sending u k) : u.eventsHandled = k :=
  eventsHandled_of_cursor (by rw [h.config.bpp]; exact h.cursor)

theorem State.Sending.inFlight (h : s.Sending u k) : u.InFlight := h.inv.flying h.running

theorem State.Sending.notReady (h : s.Sending u k) : u.ready = false :=
  (h.inv.labelled_of_hwRun h.running).notReady_of_hwRun h.running

/-- With nothing pending the engine is inside the half that holds half k of the frame. -/
theorem State.Sending.rp_range (h : s.Sending u k) (hp : u.pend = none) :
    k % 2 * s.halfLen ≤ u.rp.toNat ∧ u.rp.toNat < k % 2 * s.halfLen + s.halfLen := by
  have hL := bufLen_eq u
  have hH := h.config.halfLen
  rcases h.inFlight.of_pend_none hp with ⟨hpar, -, hrp⟩ | ⟨hpar, -, hlow, hrp⟩ <;> rw [h.eventsHandled] at hpar <;>
    rw [hpar] <;> omega

theorem State.Sending.entriesOut_of_pend_none (h : s.Sending u k) (hp : u.pend = none) :
    u.entriesOut k = k * s.halfLen + (u.rp.toNat - k % 2 * s.halfLen) := by
  rw [State.entriesOut, if_pos hp, h.config.halfLen]

theorem State.Sending.entriesOut_of_pend (h : s.Sending u k) (hp : u.pend ≠ none) :
    u.entriesOut k = (k + 1) * s.halfLen := by
  rw [State.entriesOut, if_neg hp, h.config.halfLen, Nat.succ_mul]

/-- The event that pends is due: no error comes with it. -/
theorem State.Sending.dueEvent (h : s.Sending u k) (hu : u.Undisturbed) {e : Event} (hp : u.pend = some e) :
    u.dueEvent = some e := by
  have hirq : u.irqEn = true := by
    rcases (h.inv.labelled_of_hwRun h.running).row with ⟨-, -, hf, -⟩ | ⟨-, -, -, hi⟩ | ⟨-, -, -, hi⟩ | ⟨-, -, hf, -⟩
    · rw [h.running] at hf; cases hf
    · exact hi
    · exact hi
    · rw [h.running] at hf; cases hf
  have hhead : u.turns.head? ≠ some .jointError := fun hh => (hu.turns _ (List.mem_of_head? hh)).2 rfl
  exact (dueEvent_eq_some_iff u e).mpr ⟨hirq, e, hp, (if_neg hhead).symm⟩

/-! ### The events of a transfer -/

/-- The unit at the cursor is the one the frame has next: its bytes are those that were there at SHOW. -/
theorem State.Sending.cursorEntries (h : s.Sending u k) : u.cursorEntries = s.frameHalf (k + 2) := by
  have hrecord : u.encodeRecord u.outIndex.toNat = s.encodeRecord ((k + 1) * s.bpp) := by
    rw [State.encodeRecord, State.encodeRecord, h.config.bpp, h.cursor]
    refine List.flatMap_congr fun j _ => ?_
    rw [h.unsent _ (by rw [h.cursor]; exact Nat.le_add_right _ _)]
    simp only [State.encodeByte, State.lut, h.config.zeroDuty, h.config.oneDuty]
  have hdata : u.cursorInData = true ↔ k + 1 < s.n.toNat := by
    rw [cursorInData_iff, h.cursor, h.config.n, h.config.bpp, Nat.mul_lt_mul_right (bpp_pos s)]
  show u.cursorEntries = s.unitEntries (k + 1)
  rw [State.cursorEntries, State.unitEntries, hrecord, h.config.halfLen]
  simp only [hdata]

/-- A refill of the half that has just been read puts half k + 2 of the frame there, and leaves half k + 1 alone. -/
theorem State.Sending.dmaRead_refill (h : s.Sending u k) {hf : Half} (hbase : u.halfBase hf = k % 2 * s.halfLen)
    {i : Nat} (hi : i < s.halfLen) :
    (u.fillHalf hf u.cursorEntries).dmaRead ((k + 1) % 2 * s.halfLen + i) = ((s.frameHalf (k + 1))[i]?).getD 0 ∧
    (u.fillHalf hf u.cursorEntries).dmaRead ((k + 2) % 2 * s.halfLen + i) = ((s.frameHalf (k + 2))[i]?).getD 0 := by
  have hlen : (s.frameHalf (k + 2)).length = s.halfLen := frameHalf_length s _
  rw [h.cursorEntries, dmaRead_fillHalf, dmaRead_fillHalf, hbase, hlen, Nat.add_mod_right]
  refine ⟨?_, ?_⟩
  · rw [if_neg, h.queued i hi]
    rcases Nat.mod_two_eq_zero_or_one k with hk | hk
    · rw [hk, show (k + 1) % 2 = 1 by omega]; omega
    · rw [hk, show (k + 1) % 2 = 0 by omega]; omega
  · rw [if_pos (by omega), Nat.add_sub_cancel_left]

theorem State.Sending.advancedCursor (h : s.Sending u k) : u.advancedCursor.toNat = (k + 2) * s.bpp := by
  rw [(h.inv.advancedCursor h.running).1, h.eventsHandled, h.config.bpp]

/-- After the event that pends was handled by a refill, the next half is being read. -/
theorem State.Sending.refilled (h : s.Sending u k) {hf : Half} (hbase : u.halfBase hf = k % 2 * s.halfLen)
    (hp : u.pend ≠ none) (hrp : u.rp.toNat = (k + 1) % 2 * s.halfLen) (hinv : (u.refilled hf).Inv)
    (hearly : k + 1 < completionEvent s.n.toNat) :
    s.Sending (u.refilled hf) (k + 1) ∧ (u.refilled hf).entriesOut (k + 1) = u.entriesOut k := by
  have hgrow : u.outIndex.toNat ≤ u.advancedCursor.toNat := by
    rw [h.cursor, h.advancedCursor]
    exact Nat.mul_le_mul_right _ (by omega)
  have hout : (u.refilled hf).entriesOut (k + 1) = u.entriesOut k := by
    rw [h.entriesOut_of_pend hp]
    show (k + 1) * u.halfLen + (u.rp.toNat - (k + 1) % 2 * u.halfLen) = (k + 1) * s.halfLen
    rw [hrp, h.config.halfLen, Nat.sub_self, Nat.add_zero]
  refine ⟨⟨hinv, h.running, h.config.trans ⟨rfl, rfl, rfl, rfl, rfl⟩, hearly, h.advancedCursor, fun hf => (by cases hf),
    fun a ha => h.unsent a (Nat.le_trans hgrow ha), fun i hi => (h.dmaRead_refill hbase hi).1,
    fun i hi => (h.dmaRead_refill hbase hi).2, ?_, h.outputs⟩, hout⟩
  rw [hout]
  exact h.wire

/-- The event that pends is HT after an even number of events and TC after an odd one. -/
theorem State.Sending.pend_cases (h : s.Sending u k) (hp : u.pend ≠ none) :
    (u.pend = some .ht ∧ k % 2 = 0 ∧ u.rp.toNat = s.halfLen) ∨ (u.pend = some .tc ∧ k % 2 = 1 ∧ u.rp.toNat = 0) := by
  obtain ⟨e, he⟩ := Option.ne_none_iff_exists'.mp hp
  cases e with
  | ht =>
    obtain ⟨heven, -, hrp⟩ := h.inFlight.of_ht he
    exact .inl ⟨he, h.eventsHandled ▸ heven, hrp.trans h.config.halfLen⟩
  | tc =>
    obtain ⟨hodd, -, hrp⟩ := h.inFlight.of_tc he
    exact .inr ⟨he, h.eventsHandled ▸ hodd, hrp⟩
  | err => exact absurd he h.noError

/-- TC completes at event K(N) and not before. -/
theorem State.Sending.full_iff (h : s.Sending u k) (hodd : k % 2 = 1) :
    (u.n.toNat + 2) * u.bpp ≤ u.advancedCursor.toNat ↔ k + 1 = completionEvent s.n.toNat := by
  have hearly := h.early
  rw [h.advancedCursor, h.config.n, h.config.bpp, Nat.mul_le_mul_right_iff (bpp_pos s)]
  unfold completionEvent at hearly ⊢
  split at hearly <;> split <;> omega

theorem State.Undisturbed.afterEvent (h : u.Undisturbed) (e : Event) : (u.afterEvent e).Undisturbed := by
  rw [afterEvent_frame]
  exact ⟨h.outside, h.turns, h.prog⟩

theorem step_of_due {e : Event} (h : u.Inv) (hd : u.dueEvent = some e) : step u = .next (u.afterEvent e) :=
  (step_of_dueEvent hd).trans (exec_event_of_enabled (eventEnabled_of_dueEvent hd) (mayFault_of_aligned h.aligned e))

/-- An event but the last is handled in one step, and the transfer goes on in the other half. -/
theorem State.Sending.event (h : s.Sending u k) (hu : u.Undisturbed) (hp : u.pend ≠ none)
    (hearly : k + 1 < completionEvent s.n.toNat) :
    ∃ v, step u = .next v ∧ s.Sending v (k + 1) ∧ v.Undisturbed ∧ v.turns = u.turns ∧
      v.entriesOut (k + 1) = u.entriesOut k := by
  rcases h.pend_cases hp with ⟨he, hpar, hrp⟩ | ⟨he, hpar, hrp⟩
  · have hd := h.dueEvent hu he
    obtain ⟨hnext, hout⟩ := h.refilled (hf := .a) (by rw [hpar, Nat.zero_mul]; rfl) hp
      (by rw [hrp, show (k + 1) % 2 = 1 by omega, Nat.one_mul]) (h.inv.afterEvent hd) hearly
    exact ⟨_, step_of_due h.inv hd, hnext, hu.afterEvent .ht, rfl, hout⟩
  · have hd := h.dueEvent hu he
    have hshort : ¬(u.n.toNat + 2) * u.bpp ≤ u.advancedCursor.toNat := fun hfull => by
      have := (h.full_iff hpar).mp hfull
      omega
    have hafter : u.afterEvent .tc = u.refilled .b := afterTc_of_short hshort
    have hinv := h.inv.afterEvent hd
    have hund := hu.afterEvent .tc
    rw [hafter] at hinv hund
    obtain ⟨hnext, hout⟩ := h.refilled (hf := .b) (by rw [hpar, Nat.one_mul]; exact h.config.halfLen) hp
      (by rw [hrp, show (k + 1) % 2 = 0 by omega, Nat.zero_mul]) hinv hearly
    exact ⟨_, (step_of_due h.inv hd).trans (congrArg _ hafter), hnext, hund, rfl, hout⟩

/-- The last event completes the transfer (42_scheduler.md R149). -/
theorem State.Sending.lastEvent (h : s.Sending u k) (hu : u.Undisturbed) (hp : u.pend ≠ none)
    (hlast : k + 1 = completionEvent s.n.toNat) :
    ∃ v, step u = .next v ∧ s.Sent v ∧ v.Undisturbed ∧ v.turns = u.turns := by
  have hodd : k % 2 = 1 := by
    unfold completionEvent at hlast
    split at hlast <;> omega
  obtain ⟨he, -, hrp⟩ := (h.pend_cases hp).resolve_left fun hc => by omega
  have hd := h.dueEvent hu he
  have hafter : u.afterEvent .tc = u.completed := afterTc_of_full ((h.full_iff hodd).mpr hlast)
  have hinv := h.inv.afterEvent hd
  have hund := hu.afterEvent .tc
  rw [hafter] at hinv hund
  refine ⟨_, (step_of_due h.inv hd).trans (congrArg _ hafter), ⟨hinv, rfl, rfl, rfl, rfl, rfl, BitVec.eq_of_toNat_eq hrp,
    ?_, ?_, ?_⟩, hund, rfl⟩
  · rw [← hlast]
    exact h.advancedCursor
  · show u.wire = _
    rw [h.wire, h.entriesOut_of_pend hp, hlast, ← frameWire_length, List.take_length]
  · show u.outputs ++ _ = _
    rw [h.outputs, List.append_assoc]
    rfl

/-! ### The engine's turns -/

/-- The entry the engine reads is the next one of the frame. -/
theorem State.Sending.take_succ (h : s.Sending u k) (hp : u.pend = none) :
    s.frameWire.take (u.entriesOut k + 1) = s.frameWire.take (u.entriesOut k) ++ [u.dmaRead u.rp.toNat] := by
  obtain ⟨hlow, hhigh⟩ := h.rp_range hp
  have hi : u.rp.toNat - k % 2 * s.halfLen < s.halfLen := by omega
  have hentry : u.dmaRead u.rp.toNat = ((s.frameHalf k)[u.rp.toNat - k % 2 * s.halfLen]?).getD 0 := by
    rw [← h.reading _ hi, Nat.add_sub_cancel' hlow]
  rw [List.take_add_one, h.entriesOut_of_pend_none hp, frameWire_getElem? s h.early hi, hentry]
  rfl

theorem afterEngine_pend_eq_none_iff (u : State) :
    u.afterEngine.pend = none ↔ u.rp.toNat + 1 ≠ u.bufLen ∧ u.rp.toNat + 1 ≠ u.halfLen := by
  simp only [State.afterEngine]
  split
  · next hend => simp [hend]
  · next hend => split <;> simp [*]

/-- One more entry is out: the next of half k, or its last, with which its event pends. -/
theorem State.Sending.entriesOut_afterEngine (h : s.Sending u k) (hp : u.pend = none) :
    u.afterEngine.entriesOut k = u.entriesOut k + 1 := by
  obtain ⟨hlow, hhigh⟩ := h.rp_range hp
  have hpend := afterEngine_pend_eq_none_iff u
  have hL := bufLen_eq u
  have hpos := halfLen_pos s
  rw [h.config.halfLen] at hpend hL
  rw [h.entriesOut_of_pend_none hp, State.entriesOut, show u.afterEngine.halfLen = s.halfLen from h.config.halfLen]
  by_cases hend : u.afterEngine.pend = none
  · rw [if_pos hend, afterEngine_rp_toNat h.inv.rpRange, if_neg (hpend.mp hend).1]
    omega
  · rw [if_neg hend]
    have hedge := mt hpend.mpr hend
    rcases Nat.mod_two_eq_zero_or_one k with hk | hk <;> rw [hk] at hlow hhigh ⊢ <;> omega

theorem afterEngine_pend_ne_err (u : State) : u.afterEngine.pend ≠ some .err := by
  simp only [State.afterEngine]
  split
  · decide
  · split <;> decide

/-- An engine turn puts out the next entry of the frame. -/
theorem State.Sending.afterEngine (h : s.Sending u k) (hp : u.pend = none) (hinv : u.afterEngine.Inv) :
    s.Sending u.afterEngine k := by
  refine ⟨hinv, h.running, h.config.trans ⟨rfl, rfl, rfl, rfl, rfl⟩, h.early, h.cursor, afterEngine_pend_ne_err u,
    h.unsent, h.reading, h.queued, ?_, h.outputs⟩
  rw [h.entriesOut_afterEngine hp, h.take_succ hp, ← List.append_assoc, ← h.wire]
  rfl

theorem State.Sending.withTurns (h : s.Sending u k) (ts : List Turn) : s.Sending { u with turns := ts } k :=
  ⟨h.inv.withTurns ts, h.running, h.config.trans ⟨rfl, rfl, rfl, rfl, rfl⟩, h.early, h.cursor, h.noError, h.unsent,
    h.reading, h.queued, h.wire, h.outputs⟩

/-! ### The foreground's turns -/

/-- A turn of an undisturbing foreground answers, and makes accesses of commands other than SHOW. -/
theorem State.Undisturbed.foreground (hu : u.Undisturbed) (h : u.Inv) (hd : u.dueEvent = none) {ts : List Turn}
    {whole : Bool} (hts : u.turns = (if whole then .foreground else .access) :: ts) :
    ∃ v, step u = .next v ∧ State.Accessed { u with turns := ts } v ∧ v.Undisturbed ∧ v.turns = ts := by
  have hsub : ts ⊆ u.turns := by
    rw [hts]
    exact List.subset_cons_self _ _
  rcases h.step_next_or_refused with ⟨v, hv⟩ | ⟨-, -, w, p, hp, hw⟩
  · have heff := foregroundCase_effect (h.withTurns ts) (foregroundMove_cases (nextMove_of_foreground hd hts) hv)
    have hshow : ¬State.beginsShow { u with turns := ts } := fun ⟨_, _, _, w, p, hp, hw⟩ => by
      obtain ⟨i, hi, -, hne⟩ := hu.prog w (by rw [show u.prog = w :: p from hp]; exact List.mem_cons_self)
      rw [hw] at hi
      cases hi
      exact hne rfl
    have hout : ¬State.inStart { u with turns := ts } = true := Bool.eq_false_iff.mp hu.outside
    cases heff with
    | accesses hs hacc ht hl hp =>
      refine ⟨v, hv, hacc, ⟨State.inStart_of_allowed ht, fun x hx => ?_, fun w hw => ?_⟩, hacc.turns⟩
      · rw [hacc.turns] at hx
        exact hu.turns x (hsub hx)
      · rcases hp with hp | hp
        · exact hu.prog w (hp ▸ hw)
        · exact hu.prog w (List.mem_of_mem_tail (hp ▸ hw))
    | primes l rest hp heq hw => exact absurd hw (not_or.mpr ⟨hout, fun hw => hshow hw.2⟩)
    | arms l hp heq hw => exact absurd hw (not_or.mpr ⟨hout, fun hw => hshow hw.2⟩)
  · obtain ⟨i, hi, hc, -⟩ := hu.prog w (by rw [hp]; exact List.mem_cons_self)
    rw [hw i hi] at hc
    cases hc

/-- Accesses of commands do not disturb a transfer in flight: no byte still to be sent changes. -/
theorem State.Sending.accessed (h : s.Sending u k) {v : State} (hacc : u.Accessed v) (hinv : v.Inv) :
    s.Sending v k ∧ v.entriesOut k = u.entriesOut k := by
  have hconfig : u.SameConfig v := by
    rw [hacc.frame]
    exact ⟨rfl, rfl, rfl, rfl, rfl⟩
  have hread : ∀ e, v.dmaRead e = u.dmaRead e := fun e => by rw [State.dmaRead, hacc.dma, hacc.powerUp]; rfl
  have hout : v.entriesOut k = u.entriesOut k := by
    rw [State.entriesOut, hconfig.halfLen, hacc.pend, hacc.rp]
    rfl
  refine ⟨⟨hinv, hacc.hwRun.trans h.running, h.config.trans hconfig, h.early, by rw [hacc.outIndex]; exact h.cursor,
    by rw [hacc.pend]; exact h.noError, fun a ha => ?_, fun i hi => (hread _).trans (h.reading i hi),
    fun i hi => (hread _).trans (h.queued i hi), by rw [hacc.wire, hout]; exact h.wire, hacc.outputs.trans h.outputs⟩, hout⟩
  rw [hacc.outIndex] at ha
  exact (hacc.unsent h.notReady a ha).trans (h.unsent a ha)

/-- A turn, with nothing pending: the engine puts out one entry, the foreground none. -/
theorem State.Sending.turn (h : s.Sending u k) (hu : u.Undisturbed) (hp : u.pend = none) {x : Turn} {ts : List Turn}
    (hts : u.turns = x :: ts) :
    ∃ v, step u = .next v ∧ s.Sending v k ∧ v.Undisturbed ∧ v.turns = ts ∧
      v.entriesOut k + ts.count .engine = u.entriesOut k + u.turns.count .engine := by
  have hd := dueEvent_of_pend_none hp
  have hsub : ts ⊆ u.turns := by
    rw [hts]
    exact List.subset_cons_self _ _
  have hx := hu.turns x (by rw [hts]; exact List.mem_cons_self)
  have hforeground : ∀ whole : Bool, x = (if whole then .foreground else .access) →
      ∃ v, step u = .next v ∧ s.Sending v k ∧ v.Undisturbed ∧ v.turns = ts ∧
        v.entriesOut k + ts.count .engine = u.entriesOut k + u.turns.count .engine := fun whole hwhole => by
    obtain ⟨v, hv, hacc, hund, hvts⟩ := hu.foreground h.inv hd (hts.trans (by rw [hwhole]))
    obtain ⟨hsend, hout⟩ := (h.withTurns ts).accessed hacc (h.inv.of_step hv)
    have hcount : u.turns.count .engine = ts.count .engine := by
      rw [hts, List.count_cons_of_ne]
      rw [hwhole]
      cases whole <;> decide
    exact ⟨v, hv, hsend, hund, hvts, by rw [hout, hcount]; rfl⟩
  cases x with
  | foreground => exact hforeground true rfl
  | access => exact hforeground false rfl
  | hwError => exact absurd rfl hx.1
  | jointError => exact absurd rfl hx.2
  | engine =>
    have hstep : step u = .next ({ u with turns := ts } : State).afterEngine :=
      (step_of_engine hd hts).trans (engineStep_of_enabled h.running hp h.inv.rpRange)
    have hout := (h.withTurns ts).entriesOut_afterEngine hp
    refine ⟨_, hstep, (h.withTurns ts).afterEngine hp (h.inv.of_step hstep), 
      ⟨hu.outside, fun x hx => hu.turns x (hsub hx), hu.prog⟩, rfl, ?_⟩
    rw [hout, hts, List.count_cons_self]
    show u.entriesOut k + 1 + _ = _
    omega

/-! ### Runs -/

/-- While nothing pends less than k + 1 halves are out. -/
theorem State.Sending.entriesOut_lt (h : s.Sending u k) (hp : u.pend = none) :
    k * s.halfLen ≤ u.entriesOut k ∧ u.entriesOut k < (k + 1) * s.halfLen := by
  obtain ⟨hlow, hhigh⟩ := h.rp_range hp
  rw [h.entriesOut_of_pend_none hp, Nat.succ_mul]
  omega

/-- With as many engine turns left as complete half `m - 1`, a run of all turns and of the events they raise ends with `m`
events handled. -/
theorem run_sending {m : Nat} (hm : m < completionEvent s.n.toNat) (r : Nat) {u : State} {k : Nat} (h : s.Sending u k)
    (hu : u.Undisturbed) (hk : k ≤ m) (hcount : u.entriesOut k + u.turns.count .engine = m * s.halfLen)
    (hr : r = u.turns.length + (m - k)) :
    ∃ v, Host.Core.run core r u = .next v ∧ s.Sending v m ∧ v.turns = [] ∧ v.pend = none ∧
      v.entriesOut m = m * s.halfLen := by
  have hpos := halfLen_pos s
  by_cases hp : u.pend = none
  · obtain ⟨hlow, hhigh⟩ := h.entriesOut_lt hp
    cases hts : u.turns with
    | nil =>
      rw [hts] at hcount hr
      have hlt : m * s.halfLen < (k + 1) * s.halfLen := by simpa [← hcount] using hhigh
      obtain rfl : k = m := by
        have := Nat.lt_of_mul_lt_mul_right hlt
        omega
      rw [hr, Nat.sub_self]
      exact ⟨u, rfl, h, hts, hp, hcount⟩
    | cons x ts =>
      obtain ⟨v, hv, hsend, hund, hvts, hout⟩ := h.turn hu hp hts
      obtain ⟨r, rfl⟩ : ∃ r', r = r' + 1 := ⟨ts.length + (m - k), by rw [hr, hts, List.length_cons]; omega⟩
      rw [run_succ_of_step hv]
      refine run_sending hm r hsend hund hk (by rw [hvts, hout, hcount]) ?_
      rw [hts, List.length_cons] at hr
      rw [hvts]
      omega
  · have hnext : k + 1 ≤ m := by
      rw [h.entriesOut_of_pend hp] at hcount
      exact Nat.le_of_mul_le_mul_right (show (k + 1) * s.halfLen ≤ m * s.halfLen by omega) hpos
    obtain ⟨v, hv, hsend, hund, hvts, hout⟩ := h.event hu hp (by omega)
    obtain ⟨r, rfl⟩ : ∃ r', r = r' + 1 := ⟨u.turns.length + (m - (k + 1)), by omega⟩
    rw [run_succ_of_step hv]
    exact run_sending hm r hsend hund hnext (by rw [hvts, hout, hcount]) (by rw [hvts]; omega)
termination_by r

/-- After completion the foreground goes on, and nothing of the transfer changes. -/
theorem State.Sent.accessed (h : s.Sent u) {v : State} (hacc : u.Accessed v) (hinv : v.Inv) : s.Sent v :=
  ⟨hinv, hacc.ready.trans h.ready, hacc.phase.trans h.phase, hacc.hwRun.trans h.hwRun, hacc.irqEn.trans h.irqEn,
    hacc.pend.trans h.pend, hacc.rp.trans h.rp, by rw [hacc.outIndex]; exact h.cursor, hacc.wire.trans h.wire,
    hacc.outputs.trans h.outputs⟩

theorem State.Sent.withTurns (h : s.Sent u) (ts : List Turn) : s.Sent { u with turns := ts } :=
  ⟨h.inv.withTurns ts, h.ready, h.phase, h.hwRun, h.irqEn, h.pend, h.rp, h.cursor, h.wire, h.outputs⟩

/-- The turns left after completion are the foreground's. -/
theorem run_sent (ts : List Turn) {u : State} (h : s.Sent u) (hu : u.Undisturbed) (hts : u.turns = ts)
    (hcount : ts.count .engine = 0) : ∃ v, Host.Core.run core ts.length u = .next v ∧ s.Sent v ∧ v.turns = [] := by
  induction ts generalizing u with
  | nil => exact ⟨u, rfl, h, hts⟩
  | cons x ts ih =>
    have hx := hu.turns x (by rw [hts]; exact List.mem_cons_self)
    have hengine : x ≠ .engine := fun he => by
      rw [he, List.count_cons_self] at hcount
      cases hcount
    obtain ⟨whole, hwhole⟩ : ∃ whole : Bool, x = if whole then .foreground else .access := by
      cases x with
      | foreground => exact ⟨true, rfl⟩
      | access => exact ⟨false, rfl⟩
      | engine => exact absurd rfl hengine
      | hwError => exact absurd rfl hx.1
      | jointError => exact absurd rfl hx.2
    obtain ⟨v, hv, hacc, hund, hvts⟩ :=
      hu.foreground h.inv (dueEvent_of_pend_none h.pend) (hts.trans (by rw [hwhole]))
    rw [List.length_cons, run_succ_of_step hv]
    exact ih ((h.withTurns ts).accessed hacc (h.inv.of_step hv)) hund hvts (by rwa [List.count_cons_of_ne hengine] at hcount)

/-- With as many engine turns left as complete the frame, a run of all turns and of the events they raise ends with the
transfer complete. -/
theorem run_to_completion (r : Nat) {u : State} {k : Nat} (h : s.Sending u k) (hu : u.Undisturbed)
    (hcount : u.entriesOut k + u.turns.count .engine = completionEvent s.n.toNat * s.halfLen)
    (hr : r = u.turns.length + (completionEvent s.n.toNat - k)) :
    ∃ v, Host.Core.run core r u = .next v ∧ s.Sent v ∧ v.turns = [] := by
  have hearly := h.early
  by_cases hp : u.pend = none
  · obtain ⟨hlow, hhigh⟩ := h.entriesOut_lt hp
    cases hts : u.turns with
    | nil =>
      have hle : (k + 1) * s.halfLen ≤ completionEvent s.n.toNat * s.halfLen := Nat.mul_le_mul_right _ hearly
      rw [hts] at hcount
      simp only [List.count_nil] at hcount
      omega
    | cons x ts =>
      obtain ⟨v, hv, hsend, hund, hvts, hout⟩ := h.turn hu hp hts
      obtain ⟨r, rfl⟩ : ∃ r', r = r' + 1 :=
        ⟨ts.length + (completionEvent s.n.toNat - k), by rw [hr, hts, List.length_cons]; omega⟩
      rw [run_succ_of_step hv]
      refine run_to_completion r hsend hund (by rw [hvts, hout, hcount]) ?_
      rw [hts, List.length_cons] at hr
      rw [hvts]
      omega
  · obtain ⟨r, rfl⟩ : ∃ r', r = r' + 1 := ⟨u.turns.length + (completionEvent s.n.toNat - (k + 1)), by omega⟩
    by_cases hlast : k + 1 = completionEvent s.n.toNat
    · obtain ⟨v, hv, hsent, hund, hvts⟩ := h.lastEvent hu hp hlast
      rw [run_succ_of_step hv, show r = u.turns.length by omega]
      rw [h.entriesOut_of_pend hp, hlast] at hcount
      exact run_sent u.turns hsent hund hvts (by omega)
    · obtain ⟨v, hv, hsend, hund, hvts, hout⟩ := h.event hu hp (by omega)
      rw [run_succ_of_step hv]
      exact run_to_completion r hsend hund (by rw [hvts, hout, hcount]) (by rw [hvts]; omega)
termination_by r

end

/-! ### SHOW begins a transfer -/

/-- After SHOW the transfer of the frame is in flight with no event handled, whatever program and schedule follow. -/
theorem sending_after_show {s t : State} (h : s.Inv) (ht : s.todo = []) (hr : s.ready = true) (hn : s.n ≠ 0)
    (hshow : exec .showCmd s = .next t) (ts : List Turn) (p : List CmdWord) :
    s.Sending { t with turns := ts, prog := p } 0 ∧ State.entriesOut { t with turns := ts, prog := p } 0 = 0 := by
  have hl := h.locals ht
  have hsound : s.started.retire.Sound := by
    rw [← endCommand_armed_of_primed ht hl hn]
    exact h.sound_armed (h.priming_of_ready ht hn hr)
  rw [exec_showCmd_of_ready hn hr] at hshow
  cases hshow
  have hbpp : (BitVec.ofNat 32 s.bpp).toNat = s.bpp := by
    rcases bpp_three_or_four s with h | h <;> rw [h] <;> rfl
  have hnpos : 0 < s.n.toNat := Nat.pos_of_ne_zero fun h => hn (BitVec.eq_of_toNat_eq h)
  have hL := bufLen_eq s
  refine ⟨⟨?_, rfl, ⟨rfl, rfl, rfl, rfl, rfl⟩, ?_, ?_, fun hf => (by cases hf), fun _ _ => rfl, fun i hi => ?_,
    fun i hi => ?_, ?_, rfl⟩, ?_⟩
  · have hinv := (hsound.withCommand p ts s.todo s.loaded).inv (fun a ha => by
      rw [show _ = s.todo from rfl, ht] at ha
      cases ha) fun _ => hl
    exact hinv
  · unfold completionEvent
    split <;> omega
  · rw [Nat.zero_add, Nat.one_mul]
    exact hbpp
  · show s.started.dmaRead _ = _
    rw [dmaRead_started hn, if_pos (by omega), State.frameHalf, List.getElem?_replicate_of_lt hi]
    rfl
  · show s.started.dmaRead _ = _
    rw [dmaRead_started hn, if_neg (by omega), if_pos (by omega), State.frameHalf, State.unitEntries, if_pos hnpos]
    simp
  · rw [show State.entriesOut _ 0 = 0 * s.halfLen + (0 - 0 % 2 * s.halfLen) from rfl]
    simp
    rfl
  · show 0 * s.halfLen + (0 - 0 % 2 * s.halfLen) = 0
    omega

theorem undisturbed_after_show {s t : State} (ht : s.todo = []) (hshow : exec .showCmd s = .next t)
    {ts : List Turn} {p : List CmdWord} (hts : ∀ x ∈ ts, x ≠ .hwError ∧ x ≠ .jointError)
    (hp : ∀ w ∈ p, ∃ i, decode w = .ok i ∧ i.context = .foreground ∧ i ≠ .showCmd) :
    State.Undisturbed { t with turns := ts, prog := p } := by
  have htd : t.todo = [] := by
    rcases exec_showCmd_cases hshow with rfl | rfl | rfl <;> exact ht
  exact ⟨by simp [State.inStart, htd], hts, hp⟩

/-- Settles O56. -/
theorem eventsAdvanceTheCursor : Obligations.EventsAdvanceTheCursor := by
  intro s t ts p k hinv htd hr hn hshow hts hp hk hcount
  obtain ⟨hsend, hout⟩ := sending_after_show hinv htd hr hn hshow ts p
  obtain ⟨u, hrun, hu, huts, hpend, hentries⟩ := run_sending hk (ts.length + k) hsend
    (undisturbed_after_show htd hshow hts hp) (Nat.zero_le k) (by rw [hout, Nat.zero_add]; exact hcount) rfl
  exact ⟨u, hrun, huts, hu.notReady, hpend, hu.cursor, by rw [hu.wire, hentries]⟩

/-- Settles O57. -/
theorem transferSendsTheFrame : Obligations.TransferSendsTheFrame := by
  intro s t ts p hinv htd hr hn hshow hts hp hcount
  obtain ⟨hsend, hout⟩ := sending_after_show hinv htd hr hn hshow ts p
  obtain ⟨u, hrun, hu, huts⟩ := run_to_completion (ts.length + completionEvent s.n.toNat) hsend
    (undisturbed_after_show htd hshow hts hp) (by rw [hout, Nat.zero_add]; exact hcount) rfl
  exact ⟨u, hrun, huts, hu.ready, hu.phase, hu.hwRun, hu.irqEn, hu.pend, hu.rp, hu.cursor, hu.wire, hu.outputs⟩

end Sys2Proof.Machine
end
